-- ==== Sys2Proof/Word.lean ====
section
/-! DEFINITION. The word types of HT1621B-ENC (spec R6): the data byte, the 19-bit request word, and the level
of a line. Every value of this hardware is unsigned. -/

namespace Sys2Proof

/-- An 8-bit value: an operand, a command code, a pattern, a data byte (R5 `W_VAL`, `DATA_W`). -/
abbrev Byte := BitVec 8

/-- The 19-bit request word of R53. -/
abbrev ReqWord := BitVec 19

/-- The level of a line (R8): `true` is HIGH (1), `false` is LOW (0). -/
abbrev Level := Bool

end Sys2Proof
end

