-- ==== Sys2Proof/Config.lean ====
section
/-! DEFINITION. The implementation parameters of R5. Constants of origin `source` are plain definitions; those the
spec leaves to a configuration record are the fields of `Cfg`, with the spec's stated defaults; the entries the spec
marks OPEN are opaque constants, and so are the values of the registers a reset leaves unspecified (R30). -/

namespace Sys2Proof

namespace Config

/-- `N_MIN`, the least legal bit count of one `XMIT` (R5). -/
abbrev nMin : Nat := 1
/-- `N_MAX`, the greatest legal bit count of one `XMIT` (R5). -/
abbrev nMax : Nat := 8
/-- `CMD_PREFIX_W` (R5). -/
abbrev cmdPrefixWidth : Nat := 4
/-- `WR_PREFIX_W` (R5). -/
abbrev wrPrefixWidth : Nat := 3
/-- `ADDR_FIELD_W` (R5). -/
abbrev addrFieldWidth : Nat := 6
/-- `ADDR_SHIFT` (R5). -/
abbrev addrShift : Nat := 3
/-- `DATA_W` (R5). -/
abbrev dataWidth : Nat := 8
/-- `ADDR_MAX`, the greatest legal RAM address operand (R5). -/
abbrev addrMax : Nat := 127
/-- `PAT_LEN`, the number of entries of the pattern table (R5). -/
abbrev patLen : Nat := 17
/-- `DOT_MASK`, ORed into a pattern by `SETDIGDOT` (R5, R85). -/
def dotMask : Byte := 0x08
/-- `PAT[0]`, the one pattern the source prints (R83). -/
def patZero : Byte := 0xF5

/-- `PAT[1]` to `PAT[15]` are OPEN (R5, R83): nothing is known of `openPat i`. DESIGN CHOICE (log 4), safe. -/
opaque openPat : Nat → Byte
/-- `F_CLK` in hertz is OPEN (R5, D14): nothing is known of it and no rule depends on it. Log 4, safe. -/
opaque openClockHz : Nat

/-- The value reset number `n` of a run leaves in `SR`: unspecified (R30, R105), a free value. Log 6, safe. -/
opaque resetSr : Nat → Byte
/-- The same for `BC`. -/
opaque resetBc : Nat → BitVec 4
/-- The same for `OP`. -/
opaque resetOp : Nat → BitVec 3
/-- The same for `A`. -/
opaque resetA : Nat → Byte
/-- The same for `B`. -/
opaque resetB : Nat → Byte
/-- The same for `IDX`. -/
opaque resetIdx : Nat → Byte

/-- The pattern entries 1 to 16 with the defaults of R5: 1 to 15 OPEN, 16 (space) 0x00 (decision D5, log 3). -/
def defaultPatRest : Vector Byte 16 :=
  #v[openPat 1, openPat 2, openPat 3, openPat 4, openPat 5, openPat 6, openPat 7, openPat 8,
     openPat 9, openPat 10, openPat 11, openPat 12, openPat 13, openPat 14, openPat 15, 0x00]

end Config

/-- The configuration record `Cfg` of R5: every constant whose origin is a decision of the spec. The defaults of the
prefixes, the `INIT` codes and the polarity are the spec's general knowledge (PRESUMED, log 2), those of the idle
levels, the bound of `CLEAR`, the space pattern and the settle time its decisions (log 3, 19). -/
structure Cfg where
  /-- `CMD_PREFIX`, the 4 prefix bits of a command frame (D3). -/
  cmdPrefix : BitVec 4 := 0b1000
  /-- `WR_PREFIX`, the 3 prefix bits of a write frame (D3). -/
  wrPrefix : BitVec 3 := 0b101
  /-- `CMD_RC256K`, the first code `INIT` sends (D4). -/
  cmdRc256k : Byte := 0x30
  /-- `CMD_BIAS_THIRD_4_COM`, the second code `INIT` sends (D4). -/
  cmdBiasThird4Com : Byte := 0x52
  /-- `CMD_SYS_EN`, the third code `INIT` sends (D4). -/
  cmdSysEn : Byte := 0x02
  /-- `CMD_LCD_ON`, the fourth code `INIT` sends (D4). -/
  cmdLcdOn : Byte := 0x06
  /-- `CS_ON`, the level of the asserted chip-select line (D6). -/
  csOn : Level := false
  /-- `WR_IDLE`, the level of the clock line after reset (D7). -/
  wrIdle : Level := true
  /-- `DATA_IDLE`, the level of the data line after reset (D7). -/
  dataIdle : Level := true
  /-- `CLEAR_MAX`, the greatest legal place count of `CLEAR`, by default `ADDR_MAX` + 1 (D10). No value above that
  exists: every address of a `CLEAR` is at most `ADDR_MAX`, and R19's bound on the event list holds (DEDUCED, log 19). -/
  clearMax : Fin (Config.addrMax + 2) := Fin.last (Config.addrMax + 1)
  /-- `PAT[1]` to `PAT[16]`, entry `i` at index `i - 1` (R83, D5). -/
  patRest : Vector Byte 16
  /-- `T_SETTLE` in microseconds, the least length of a `Wait` (D14). -/
  tSettleUs : Nat := 20
  /-- `F_CLK` in hertz (D14). -/
  fClkHz : Nat
deriving DecidableEq, Repr

/-- The configuration with every default of R5 and the OPEN entries opaque. -/
def Cfg.default : Cfg where
  patRest := Config.defaultPatRest
  fClkHz := Config.openClockHz

/-- `CS_OFF = not CS_ON` (R5, D6). -/
def Cfg.csOff (cfg : Cfg) : Level := !cfg.csOn

end Sys2Proof
end

