-- ==== Sys2Proof/Machine/State.lean ====
section
/-! DEFINITION. The state of HT1621B-ENC as plain data (R11), with the model's own fields for the configuration, the
host's coming actions and the responses given, and the state after reset (R30). -/

namespace Sys2Proof.Machine

/-- The three output lines (R8, R14). -/
inductive Pin where
  /-- Chip-select. -/
  | cs
  /-- The read/write clock. -/
  | wr
  /-- The data line. -/
  | data
deriving DecidableEq, Repr

/-- An event (R8): the only way the block acts on the outside world. -/
inductive Event where
  /-- `Set(p, l)`: drives line `p` to level `l`, whether or not the level changes (D16). -/
  | set (p : Pin) (l : Level)
  /-- `Wait`: holds all three lines for at least `T_SETTLE`. -/
  | wait
deriving DecidableEq, Repr

/-- `LIFE` (R20); its code 3 is never taken and has no name (log 20). -/
inductive Life where
  /-- 0: power applied, reset not yet taken. -/
  | uninit
  /-- 1: reset taken. -/
  | bound
  /-- 2: an `INIT` has completed since reset. -/
  | inited
deriving DecidableEq, Repr

/-- The status code of a response (R22, R87); code 3 is never produced and has no name (log 20). -/
inductive RespStatus where
  /-- 0, `OK`. -/
  | ok
  /-- 1, `InvalidArgument`. -/
  | invalidArgument
  /-- 2, reserved for `InitFailure`, never produced (R95). -/
  | initFailure
deriving DecidableEq, Repr

/-- One action of the host (R12, R110). The list of those to come is the model's input tape (log 7). -/
inductive HostAction where
  /-- Issue the word and leave the block alone until the response: the operation in one step (R28, log 8). -/
  | request (w : ReqWord)
  /-- The host step `Issue(w)` of R26 alone: an accepted operation then runs one engine step at a time (R27). -/
  | issue (w : ReqWord)
  /-- Let the block take one step of its own (R27), or stand idle (R103). -/
  | pass
  /-- Take reset (R105, R107); a word presented in the same instant is lost (R91, R107). -/
  | reset (presented : Option ReqWord)
deriving DecidableEq, Repr

/-- Why the machine stops. -/
inductive Fault where
  /-- Raised by `engineStep` when `BUSY = 1` and no event of the latched operation stands at `UPC`. R19 says there is
  no such state; the invariant `Inv` proves that no run reaches one. Safe: the model stops (log 12). -/
  | engineOffEnd
deriving DecidableEq, Repr

/-- Why a step gives no meaning. -/
inductive Refusal where
  /-- Raised by `exec` for an instruction without a meaning; no arm raises it, every row has its meaning. Safe. -/
  | notModelled (mnemonic : String)
deriving DecidableEq, Repr

/-- The state (R11). The fields from `responses` on are the model's own. -/
@[ext]
structure State where
  /-- The chip-select line (R14). -/
  cs : Level
  /-- The read/write clock line (R14). -/
  wr : Level
  /-- The data line (R14). -/
  data : Level
  /-- The shift register (R15). -/
  sr : Byte
  /-- Bits of the current group still to send (R16). -/
  bc : BitVec 4
  /-- The latched operation code (R17). -/
  op : BitVec 3
  /-- The latched first operand (R17). -/
  a : Byte
  /-- The latched second operand (R17). -/
  b : Byte
  /-- The frame counter of `CLEAR` and `INIT` (R18). -/
  idx : Byte
  /-- 1 from acceptance to completion (R19). -/
  busy : Bool
  /-- The index of the next event (R19). -/
  upc : BitVec 14
  /-- The lifecycle (R20). -/
  life : Life
  /-- The sticky error flag (R21). -/
  err : Bool
  /-- The status code of the last response (R22). -/
  rstat : RespStatus
  /-- The ghost list of every event since reset, oldest first (R24). -/
  trace : List Event
  /-- The ghost list of every response since reset, oldest first (R124, log 10). -/
  responses : List RespStatus
  /-- The configuration, the pattern table among it (R5, R25); no step writes it (log 1). -/
  cfg : Cfg
  /-- The host's coming actions, next first (log 7). -/
  agenda : List HostAction
  /-- How many resets this run has taken; it indexes the free values of R30 (log 6). -/
  resets : Nat
deriving DecidableEq, Repr

/-- The state after reset (R30, R105), with the default configuration and nothing to come from the host. `SR`, `BC`,
`OP`, `A`, `B` and `IDX` are unspecified there: 0 by DESIGN CHOICE (log 5), unsafe. -/
def State.reset : State where
  cs := Cfg.default.csOff
  wr := Cfg.default.wrIdle
  data := Cfg.default.dataIdle
  sr := 0
  bc := 0
  op := 0
  a := 0
  b := 0
  idx := 0
  busy := false
  upc := 0
  life := .bound
  err := false
  rstat := .ok
  trace := []
  responses := []
  cfg := Cfg.default
  agenda := []
  resets := 0

end Sys2Proof.Machine
end

