-- ==== Sys2Proof/Machine/Operands.lean ====
section
/-! DEFINITION. How operands become the values of bit groups: the address field (R35, R51), the data field (R52), the
pattern table (R83), the mode selectors kept left-justified (R66), and the command codes of `INIT` (R80). -/

namespace Sys2Proof.Machine

/-- One bit group of a frame (R10): the top `count` bits of `value` are sent. -/
structure Group where
  /-- The value loaded into `SR`. -/
  value : Byte
  /-- The bit count loaded into `BC`, 1 to 8. -/
  count : Nat
deriving DecidableEq, Repr

/-- `COMMAND_MODE = CMD_PREFIX << 4` (R66). -/
def commandMode (cfg : Cfg) : Byte := cfg.cmdPrefix.setWidth 8 <<< (Config.dataWidth - Config.cmdPrefixWidth)

/-- `WRITE_MODE = WR_PREFIX << 5` (R66). -/
def writeMode (cfg : Cfg) : Byte := cfg.wrPrefix.setWidth 8 <<< (Config.dataWidth - Config.wrPrefixWidth)

/-- `trunc_8(A << 3)`, of which the top six bits are the address field (R35, R51, decisions D1 and D2). -/
def addrValue (a : Byte) : Byte := a <<< Config.addrShift

/-- `MemRead(i, 1) = PAT[i]`, defined for `0 <= i <= 16` only (R7, R83). -/
def patRead (cfg : Cfg) (i : Byte) : Option Byte :=
  if i = 0 then some Config.patZero else cfg.patRest[i.toNat - 1]?

/-- The data byte of `SETDIG` (R84). -/
def digitData (cfg : Cfg) (i : Byte) : Option Byte := patRead cfg i

/-- The data byte of `SETDIGDOT` (R85). -/
def digitDotData (cfg : Cfg) (i : Byte) : Option Byte := (patRead cfg i).map (· ||| Config.dotMask)

/-- The data byte of every frame of `CLEAR` (R52). -/
def clearData : Byte := 0x00

/-- The four codes of `INIT` in the order that must not change (R80, R114). -/
def initCodes (cfg : Cfg) : List Byte :=
  [cfg.cmdRc256k, cfg.cmdBiasThird4Com, cfg.cmdSysEn, cfg.cmdLcdOn]

/-- The groups of a command frame (R47, R74). -/
def cmdGroups (cfg : Cfg) (c : Byte) : List Group :=
  [⟨commandMode cfg, Config.cmdPrefixWidth⟩, ⟨c, Config.dataWidth⟩]

/-- The groups of a write frame (R48, R75). -/
def wrGroups (cfg : Cfg) (a d : Byte) : List Group :=
  [⟨writeMode cfg, Config.wrPrefixWidth⟩, ⟨addrValue a, Config.addrFieldWidth⟩, ⟨d, Config.dataWidth⟩]

end Sys2Proof.Machine
end

