-- ==== Sys2Proof/Syntax.lean ====
section
/-! DEFINITION. The requests of HT1621B-ENC: one constructor per row of spec/opcode_table.json (R54). Every request
carries both operand bytes of the word, the ignored ones too, because they are latched (R57). -/

namespace Sys2Proof

/-- The eight rows of the opcode map (R54). -/
inductive Instr where
  /-- `op = 0`: the reserved encoding (R56). -/
  | reserved0 (a b : Byte)
  /-- `op = 1`, `INIT` (R80); both operands ignored. -/
  | init (a b : Byte)
  /-- `op = 2`, `SENDCMD cmd` (R74); `a` is the command code, `b` ignored. -/
  | sendcmd (a b : Byte)
  /-- `op = 3`, `WRBYTE address, data` (R76). -/
  | wrbyte (a b : Byte)
  /-- `op = 4`, `CLEAR placeCount` (R81); `b` ignored. -/
  | clear (a b : Byte)
  /-- `op = 5`, `SETDIG address, value` (R84). -/
  | setdig (a b : Byte)
  /-- `op = 6`, `SETDIGDOT address, value` (R85). -/
  | setdigdot (a b : Byte)
  /-- `op = 7`, `XMIT value, bitCount` (R68). -/
  | xmit (a b : Byte)
deriving DecidableEq, Repr

/-- The operation code of R54. -/
def Instr.op : Instr → BitVec 3
  | .reserved0 _ _ => 0
  | .init _ _ => 1
  | .sendcmd _ _ => 2
  | .wrbyte _ _ => 3
  | .clear _ _ => 4
  | .setdig _ _ => 5
  | .setdigdot _ _ => 6
  | .xmit _ _ => 7

/-- The first operand field `A` (R53). -/
def Instr.a : Instr → Byte
  | .reserved0 a _ | .init a _ | .sendcmd a _ | .wrbyte a _
  | .clear a _ | .setdig a _ | .setdigdot a _ | .xmit a _ => a

/-- The second operand field `B` (R53). -/
def Instr.b : Instr → Byte
  | .reserved0 _ b | .init _ b | .sendcmd _ b | .wrbyte _ b
  | .clear _ b | .setdig _ b | .setdigdot _ b | .xmit _ b => b

end Sys2Proof
end

