-- ==== Sys2Proof/WellFormed.lean ====
section
/-! DEFINITION. Well-formed requests: the operand ranges the assembler's syntax states for each operation (R59, the
ranges of R55), under a configuration, which gives `CLEAR_MAX` (R5). An ill-formed request can still be encoded and issued; it raises `InvalidArgument` (R56, R59). -/

namespace Sys2Proof

/-- The operand ranges of R59. The reserved encoding has no legal operand. -/
def Instr.wellFormed (cfg : Cfg) : Instr → Bool
  | .reserved0 _ _ => false
  | .init _ _ => true
  | .sendcmd _ _ => true
  | .wrbyte a _ => a.toNat ≤ Config.addrMax
  | .clear a _ => a.toNat ≤ cfg.clearMax.val
  | .setdig a b => a.toNat ≤ Config.addrMax && b.toNat < Config.patLen
  | .setdigdot a b => a.toNat ≤ Config.addrMax && b.toNat < Config.patLen
  | .xmit _ b => Config.nMin ≤ b.toNat && b.toNat ≤ Config.nMax

end Sys2Proof
end

