-- ==== Sys2Proof/Decode.lean ====
section
/-! DEFINITION. The request encoding (R53 to R57, R62): the decoder, total over the 2^19 words; the legality test of
R55 over the three fields; `Decode` of R62; and after them the encoder of R59. -/

namespace Sys2Proof

/-- The row of R54 the operation code selects, with its operand fields. -/
def decodeFields (op : BitVec 3) (a b : Byte) : Instr :=
  match op.toFin with
  | 0 => .reserved0 a b
  | 1 => .init a b
  | 2 => .sendcmd a b
  | 3 => .wrbyte a b
  | 4 => .clear a b
  | 5 => .setdig a b
  | 6 => .setdigdot a b
  | 7 => .xmit a b

/-- The field `op`, bits 18:16 of the request word (R53). -/
def opField (w : ReqWord) : BitVec 3 := w.extractLsb' 16 3
/-- The field `A`, bits 15:8 (R53). -/
def aField (w : ReqWord) : Byte := w.extractLsb' 8 8
/-- The field `B`, bits 7:0 (R53). -/
def bField (w : ReqWord) : Byte := w.extractLsb' 0 8

/-- The row of the opcode map a request word selects (R54): total, every word has exactly one row. -/
def decode (w : ReqWord) : Instr := decodeFields (opField w) (aField w) (bField w)

/-- A RAM address operand in range: 0 to `ADDR_MAX` (R55, R88). -/
def addrLegal (a : Byte) : Bool := a.toNat ≤ Config.addrMax
/-- A place count in range: 0 to `CLEAR_MAX`, the one bound that is a configuration value (R5, R55, R62, R88). -/
def placesLegal (cfg : Cfg) (a : Byte) : Bool := a.toNat ≤ cfg.clearMax.val
/-- A pattern index in range: 0 to 16 (R55, R88). -/
def indexLegal (b : Byte) : Bool := b.toNat < Config.patLen
/-- A bit count in range: `N_MIN` to `N_MAX` (R55, R88). -/
def countLegal (b : Byte) : Bool := Config.nMin ≤ b.toNat && b.toNat ≤ Config.nMax

/-- `Legal(op, a, b)` of R55. -/
def legalFields (cfg : Cfg) (op : BitVec 3) (a b : Byte) : Bool :=
  match op.toFin with
  | 0 => false
  | 1 => true
  | 2 => true
  | 3 => addrLegal a
  | 4 => placesLegal cfg a
  | 5 => addrLegal a && indexLegal b
  | 6 => addrLegal a && indexLegal b
  | 7 => countLegal b

/-- Why a number or a word is no operation. -/
inductive DecodeError where
  /-- `Decode` of R62: the reserved opcode, or an operand out of the range of R55. -/
  | invalidArgument
  /-- The number has a bit above bit 18 and is no 19-bit request word (R53). -/
  | notARequestWord
deriving DecidableEq, Repr

/-- `Decode(w)` of R62: the operation, or `InvalidArgument`. -/
def decodeLegal (cfg : Cfg) (w : ReqWord) : Except DecodeError Instr :=
  if legalFields cfg (opField w) (aField w) (bField w) then .ok (decode w) else .error .invalidArgument

/-- The request word a number is, if it has 19 bits (R53). -/
def toReqWord (n : Nat) : Except DecodeError ReqWord :=
  if n < 2 ^ 19 then .ok (BitVec.ofNat 19 n) else .error .notARequestWord

/-- The row of the opcode map of a request given as a number, rejecting by name a number that is no request word. -/
def decodeNat (n : Nat) : Except DecodeError Instr :=
  match toReqWord n with
  | .ok w => .ok (decode w)
  | .error e => .error e

/-- The number of a table word: the low `nbits` bits of `w`, every bit above them 0. -/
def tableNumber (nbits w : Nat) : Nat := w % 2 ^ nbits

/-- The instruction read from bits numbered as spec/opcode_table.json numbers them: bit 0 of `w` is bit 0 of the
request word. The port takes the word whole, so no byte order enters (log 17). -/
def decodeTableWord (nbits w : Nat) : Option Instr :=
  match decodeNat (tableNumber nbits w) with
  | .ok i => some i
  | .error _ => none

/-- The assembler's encoding `(op << 16) | (A << 8) | B` (R59). -/
def encode (i : Instr) : ReqWord :=
  (i.op.setWidth 19 <<< 16) ||| (i.a.setWidth 19 <<< 8) ||| i.b.setWidth 19

end Sys2Proof
end

