-- ==== Sys2Proof/Machine/Ops.lean ====
section
/-! DEFINITION. The named operations over the state: driving a line, emitting an event (R8), the register writes
attached to events (R27), responding (R26), accepting and completing a request (R26, R27), taking the one exception
(R93; R94: there is nothing to return from), and the reset action (R105). -/

namespace Sys2Proof.Machine

/-- `req_ready = not BUSY and LIFE != UNINIT` (R26, D8): the host has an `Issue` step. -/
def State.reqReady (s : State) : Bool := !s.busy && s.life != .uninit

/-- The level of a line. -/
def State.pin (s : State) : Pin → Level
  | .cs => s.cs
  | .wr => s.wr
  | .data => s.data

/-- `p <- l` (R8). -/
def State.setPin (s : State) (p : Pin) (l : Level) : State :=
  match p with
  | .cs => { s with cs := l }
  | .wr => { s with wr := l }
  | .data => { s with data := l }

/-- `emit(e)` (R8): applies the event's effect and appends it to `TRACE`. -/
def State.emit (s : State) (e : Event) : State :=
  match e with
  | .set p l => { s.setPin p l with trace := s.trace ++ [e] }
  | .wait => { s with trace := s.trace ++ [e] }

/-- A register write attached to an event (R27). -/
inductive RegWrite where
  /-- `SR <- v; BC <- n`, at the first event of a group. -/
  | load (v : Byte) (n : BitVec 4)
  /-- `SR <- trunc_8(SR << 1); BC <- BC - 1`, at the last event of a bit. -/
  | shift
  /-- `IDX <- i`, at the first event of a frame of `CLEAR` or `INIT` (R18). -/
  | idxSet (i : Byte)
  /-- `IDX <- IDX + 1`, at that frame's last event (R18). -/
  | idxInc
deriving DecidableEq, Repr

/-- Performs a register write. -/
def State.regWrite (s : State) : RegWrite → State
  | .load v n => { s with sr := v, bc := n }
  | .shift => { s with sr := s.sr <<< 1, bc := s.bc - 1 }
  | .idxSet i => { s with idx := i }
  | .idxInc => { s with idx := s.idx + 1 }

/-- Performs a register write, if there is one. -/
def State.regWrite? (s : State) : Option RegWrite → State
  | some u => s.regWrite u
  | none => s

/-- One entry of the sequencer's list: an event with the register writes attached before and after it (R27). -/
structure Micro where
  /-- The write before the event. -/
  pre : Option RegWrite
  /-- The event. -/
  event : Event
  /-- The write after the event. -/
  post : Option RegWrite
deriving DecidableEq, Repr

/-- The pre-update, the event, the post-update and `UPC <- UPC + 1` of one engine step (R27). -/
def State.perform (s : State) (m : Micro) : State :=
  let s' := ((s.regWrite? m.pre).emit m.event).regWrite? m.post
  { s' with upc := s'.upc + 1 }

/-- Performs a list of entries in order. -/
def State.performAll (s : State) (ms : List Micro) : State :=
  ms.foldl State.perform s

/-- `respond(st)` together with the status write that goes with it (R22, R26). -/
def State.respond (s : State) (st : RespStatus) : State :=
  { s with rstat := st, responses := s.responses ++ [st] }

/-- `raise InvalidArgument` (R93): `ERR <- 1`, `RSTAT <- 1`, the one response, and nothing else (R90, R92). -/
def State.raiseInvalidArgument (s : State) : State :=
  { s with err := true }.respond .invalidArgument

/-- The latches of R17 and `UPC <- 0` at acceptance (R26). -/
def State.latch (s : State) (i : Instr) : State :=
  { s with op := i.op, a := i.a, b := i.b, upc := 0 }

/-- Acceptance of a legal request whose event list is `ms` (R26): an empty list, which only `CLEAR` with `A = 0` has,
is answered at once with `IDX <- 0`; any other sets `BUSY`. -/
def State.accept (s : State) (i : Instr) (ms : List Micro) : State :=
  if ms.isEmpty then { s.latch i with idx := 0 }.respond .ok
  else { s.latch i with busy := true }

/-- What the last engine step of an operation does after its event (R27): `BUSY <- 0`, `LIFE <- INITED` for `INIT`,
and the response `OK`. -/
def State.complete (s : State) : State :=
  { s with busy := false, life := if s.op = 1 then .inited else s.life }.respond .ok

/-- The reset action (R105, R107): idle levels, an idle sequencer, `LIFE = BOUND`, clear status, an empty `TRACE`.
The registers R105 leaves unspecified take free values (log 6); the configuration and the host's coming actions stay. -/
def State.takeReset (s : State) : State where
  cs := s.cfg.csOff
  wr := s.cfg.wrIdle
  data := s.cfg.dataIdle
  sr := Config.resetSr s.resets
  bc := Config.resetBc s.resets
  op := Config.resetOp s.resets
  a := Config.resetA s.resets
  b := Config.resetB s.resets
  idx := Config.resetIdx s.resets
  busy := false
  upc := 0
  life := .bound
  err := false
  rstat := .ok
  trace := []
  responses := []
  cfg := s.cfg
  agenda := s.agenda
  resets := s.resets + 1

end Sys2Proof.Machine
end

