-- ==== Sys2Proof/Machine/Frames.lean ====
section
/-! DEFINITION. The event lists of the serializer and the framer (R63, R64, R71, R74, R75), as the spec writes them,
and the same lists with the register writes of R27 attached, which the engine performs. -/

namespace Sys2Proof.Machine

/-- `Bit(b)` (R63). -/
def bitEvents (b : Level) : List Event :=
  [.set .wr false, .wait, .set .data b, .wait, .set .wr true, .wait]

/-- `v[7], v[6], ..., v[8-n]` (R33). -/
def topBits (v : Byte) (n : Nat) : List Level :=
  (List.range n).map fun k => v.getLsbD (7 - k)

/-- `Xmit(v, n)` (R64). -/
def xmitEvents (v : Byte) (n : Nat) : List Event :=
  (topBits v n).flatMap bitEvents

/-- `Frame(G)` (R71). -/
def frameEvents (cfg : Cfg) (g : List Group) : List Event :=
  [.set .cs cfg.csOn] ++ g.flatMap (fun x => xmitEvents x.value x.count) ++ [.set .cs cfg.csOff]

/-- `CmdFrame(c)` (R74). -/
def cmdFrame (cfg : Cfg) (c : Byte) : List Event := frameEvents cfg (cmdGroups cfg c)

/-- `WrFrame(a, d)` (R75), which R7 calls `MemWrite(a, 1, d)`. -/
def wrFrame (cfg : Cfg) (a d : Byte) : List Event := frameEvents cfg (wrGroups cfg a d)

/-- Attaches a write before the first event of a list and one after its last. -/
def attach (pre post : Option RegWrite) : List Event → List Micro
  | [] => []
  | [e] => [⟨pre, e, post⟩]
  | e :: e' :: es => ⟨pre, e, none⟩ :: attach none post (e' :: es)

/-- One bit, with the shift after its third `Wait` (R27, R65). -/
def bitMicros (pre : Option RegWrite) (b : Level) : List Micro :=
  attach pre (some .shift) (bitEvents b)

/-- The bits of a group, with `pre` before its first event. -/
def bitsMicros (pre : Option RegWrite) : List Level → List Micro
  | [] => []
  | b :: bs => bitMicros pre b ++ bitsMicros none bs

/-- One group, with `SR` and `BC` loaded at its first event (R27, R65). -/
def xmitMicros (v : Byte) (n : Nat) : List Micro :=
  bitsMicros (some (.load v (BitVec.ofNat 4 n))) (topBits v n)

/-- One frame, with the `IDX` writes of a multi-frame operation at its first and last event (R18). -/
def frameMicros (cfg : Cfg) (pre post : Option RegWrite) (g : List Group) : List Micro :=
  [⟨pre, .set .cs cfg.csOn, none⟩] ++ g.flatMap (fun x => xmitMicros x.value x.count)
    ++ [⟨none, .set .cs cfg.csOff, post⟩]

/-- Frames one after another, frame `i` counted in `IDX` (R18, R82). -/
def seqMicros (cfg : Cfg) (frames : List (List Group)) : List Micro :=
  frames.zipIdx.flatMap fun (g, i) =>
    frameMicros cfg (some (.idxSet (BitVec.ofNat 8 i))) (some .idxInc) g

end Sys2Proof.Machine
end

