-- ==== Sys2Proof/Machine/Engine.lean ====
section
/-! DEFINITION. The event list of each operation (R19 `Events(OP, A, B)`), the host step `Issue` (R26), the engine
step (R27), and the request in one step (R28), which the meanings share. -/

namespace Sys2Proof.Machine

/-- `INIT` (R80): the four command frames, in order. -/
def initMicros (cfg : Cfg) : List Micro :=
  seqMicros cfg ((initCodes cfg).map (cmdGroups cfg))

/-- `SENDCMD` (R74). -/
def sendcmdMicros (cfg : Cfg) (a : Byte) : List Micro :=
  frameMicros cfg none none (cmdGroups cfg a)

/-- `WRBYTE` (R76). -/
def wrbyteMicros (cfg : Cfg) (a b : Byte) : List Micro :=
  frameMicros cfg none none (wrGroups cfg a b)

/-- `CLEAR` (R81): one write frame of zero for each address `0 .. A-1`, ascending. -/
def clearMicros (cfg : Cfg) (a : Byte) : List Micro :=
  seqMicros cfg ((List.range a.toNat).map fun i => wrGroups cfg (BitVec.ofNat 8 i) clearData)

/-- `SETDIG` (R84); outside the table nothing is read and nothing sent. -/
def setdigMicros (cfg : Cfg) (a b : Byte) : List Micro :=
  match digitData cfg b with
  | some d => frameMicros cfg none none (wrGroups cfg a d)
  | none => []

/-- `SETDIGDOT` (R85). -/
def setdigdotMicros (cfg : Cfg) (a b : Byte) : List Micro :=
  match digitDotData cfg b with
  | some d => frameMicros cfg none none (wrGroups cfg a d)
  | none => []

/-- The list of the operation with latched fields `op`, `a`, `b` (R19). A request that is not legal has none. -/
def opMicros (cfg : Cfg) (op : BitVec 3) (a b : Byte) : List Micro :=
  if legalFields cfg op a b then
    match decodeFields op a b with
    | .reserved0 _ _ => []
    | .init _ _ => initMicros cfg
    | .sendcmd a _ => sendcmdMicros cfg a
    | .wrbyte a b => wrbyteMicros cfg a b
    | .clear a _ => clearMicros cfg a
    | .setdig a b => setdigMicros cfg a b
    | .setdigdot a b => setdigdotMicros cfg a b
    | .xmit a b => xmitMicros a b.toNat
  else []

/-- `Events(op, a, b)` (R19). -/
def opEvents (cfg : Cfg) (op : BitVec 3) (a b : Byte) : List Event :=
  (opMicros cfg op a b).map Micro.event

/-- The list the engine works through: that of the latched operation (R19, log 13). -/
def State.ev (s : State) : List Micro := opMicros s.cfg s.op s.a s.b

/-- The host step `Issue(w)` of R26, for a port that is ready. -/
def State.issue (s : State) (w : ReqWord) : State :=
  let i := decode w
  if legalFields s.cfg i.op i.a i.b then s.accept i (opMicros s.cfg i.op i.a i.b)
  else s.raiseInvalidArgument

/-- The engine step of R27, for `BUSY = 1`. -/
def engineStep (s : State) : Host.Outcome State Fault Refusal :=
  match s.ev[s.upc.toNat]? with
  | some m =>
    let s' := s.perform m
    .next (if s'.upc.toNat = s.ev.length then s'.complete else s')
  | none => .fault .engineOffEnd

/-- The one step the block can take without the host: an engine step while `BUSY = 1`, else it stands idle (R103).
Before the first reset it takes none (R106). -/
def pass (s : State) : Host.Outcome State Fault Refusal :=
  if s.busy && s.life != .uninit then engineStep s else .next s

/-- A request taken in one step (R28). While the port is not ready the request is held and the block takes its own
step (R26, R104, log 9). A request that fails its check raises `InvalidArgument` before any event (R89). Any other is
accepted, its whole list is performed, and it completes. -/
def runRequest (i : Instr) (legal : Bool) (ms : List Micro) (s : State) :
    Host.Outcome State Fault Refusal :=
  if s.reqReady then
    if legal then
      let s' := s.accept i ms
      .next (if ms.isEmpty then s' else (s'.performAll ms).complete)
    else .next s.raiseInvalidArgument
  else pass s

end Sys2Proof.Machine
end

