-- ==== Sys2Proof/Machine/Digits.lean ====
section
/-! DEFINITION. The digit operations `SETDIG` (R84) and `SETDIGDOT` (R85). -/

namespace Sys2Proof.Machine

/-- `SETDIG address, value` (R84): writes `PAT[value]`; `InvalidArgument` when either operand is out of range. -/
def execSetdig (a b : Byte) (s : State) : Host.Outcome State Fault Refusal :=
  runRequest (.setdig a b) (addrLegal a && indexLegal b) (setdigMicros s.cfg a b) s

/-- `SETDIGDOT address, value` (R85): writes `PAT[value] | 0x08`; the same checks. -/
def execSetdigdot (a b : Byte) (s : State) : Host.Outcome State Fault Refusal :=
  runRequest (.setdigdot a b) (addrLegal a && indexLegal b) (setdigdotMicros s.cfg a b) s

end Sys2Proof.Machine
end

