-- ==== Sys2Proof/Machine/FrameOps.lean ====
section
/-! DEFINITION. The operations that send one frame of their operands: `SENDCMD` (R74) and `WRBYTE` (R76). -/

namespace Sys2Proof.Machine

/-- `SENDCMD cmd` (R74): one command frame with code `a`, any code. -/
def execSendcmd (a b : Byte) (s : State) : Host.Outcome State Fault Refusal :=
  runRequest (.sendcmd a b) true (sendcmdMicros s.cfg a) s

/-- `WRBYTE address, data` (R76): one write frame; `InvalidArgument` when the address is above 127. -/
def execWrbyte (a b : Byte) (s : State) : Host.Outcome State Fault Refusal :=
  runRequest (.wrbyte a b) (addrLegal a) (wrbyteMicros s.cfg a b) s

end Sys2Proof.Machine
end

