-- ==== Sys2Proof/Machine/Reserved.lean ====
section
/-! DEFINITION. The reserved encoding `op = 0` (R56). -/

namespace Sys2Proof.Machine

/-- `RESERVED0` (R56): never legal, raises `InvalidArgument` for all operand values and emits nothing. -/
def execReserved0 (a b : Byte) (s : State) : Host.Outcome State Fault Refusal :=
  runRequest (.reserved0 a b) false [] s

end Sys2Proof.Machine
end

