-- ==== Sys2Proof/Machine/Sequences.lean ====
section
/-! DEFINITION. The fixed sequences `INIT` (R80) and `CLEAR` (R81). -/

namespace Sys2Proof.Machine

/-- `INIT` (R80): four command frames; `LIFE <- INITED` at completion. -/
def execInit (a b : Byte) (s : State) : Host.Outcome State Fault Refusal :=
  runRequest (.init a b) true (initMicros s.cfg) s

/-- `CLEAR placeCount` (R81): write frames of zero to addresses `0 .. a-1`; `InvalidArgument` when `a` is above
`CLEAR_MAX`, by default 128. -/
def execClear (a b : Byte) (s : State) : Host.Outcome State Fault Refusal :=
  runRequest (.clear a b) (placesLegal s.cfg a) (clearMicros s.cfg a) s

end Sys2Proof.Machine
end

