-- ==== Sys2Proof/Machine/Serializer.lean ====
section
/-! DEFINITION. The raw serializer operation `XMIT` (R68). -/

namespace Sys2Proof.Machine

/-- `XMIT value, bitCount` (R68): the top `b` bits of `a`, chip-select untouched; `InvalidArgument` unless
`1 <= b <= 8`. -/
def execXmit (a b : Byte) (s : State) : Host.Outcome State Fault Refusal :=
  runRequest (.xmit a b) (countLegal b) (xmitMicros a b.toNat) s

end Sys2Proof.Machine
end

