-- ==== Sys2Proof/Machine/Dispatch.lean ====
section
/-! DEFINITION. One arm per row of the opcode map (R54). -/

namespace Sys2Proof.Machine

-- The meaning of each request.
def exec (i : Instr) (s : State) : Host.Outcome State Fault Refusal :=
  match i with
  | .reserved0 a b => Sys2Proof.Machine.execReserved0 a b s
  | .init a b => Sys2Proof.Machine.execInit a b s
  | .sendcmd a b => Sys2Proof.Machine.execSendcmd a b s
  | .wrbyte a b => Sys2Proof.Machine.execWrbyte a b s
  | .clear a b => Sys2Proof.Machine.execClear a b s
  | .setdig a b => Sys2Proof.Machine.execSetdig a b s
  | .setdigdot a b => Sys2Proof.Machine.execSetdigdot a b s
  | .xmit a b => Sys2Proof.Machine.execXmit a b s

end Sys2Proof.Machine
end

