-- ==== Sys2Proof/Machine/Step.lean ====
section
/-! DEFINITION. One step of the machine: the host's next action, or the block's own step (R12, R26, R27, R105). -/

namespace Sys2Proof.Machine

/-- One step. A request is taken only when the port is ready; until then it stays first on the agenda and the block
takes its own step (R26, R104, log 7, 9). With nothing to come from the host the block takes its own step. -/
def step (s : State) : Host.Outcome State Fault Refusal :=
  match s.agenda with
  | [] => pass s
  | .pass :: rest => pass { s with agenda := rest }
  | .reset _ :: rest => .next { s with agenda := rest }.takeReset
  | .issue w :: rest => if s.reqReady then .next ({ s with agenda := rest }.issue w) else pass s
  | .request w :: rest => if s.reqReady then exec (decode w) { s with agenda := rest } else exec (decode w) s

/-- The state with a table word as the request the host issues next (log 11); a number that is no request word
cannot be presented and leaves the state as it is. -/
def State.withFetchWord (s : State) (nbits w : Nat) : State :=
  match toReqWord (tableNumber nbits w) with
  | .ok r => { s with agenda := .request r :: s.agenda }
  | .error _ => s

end Sys2Proof.Machine
end

