-- ==== Sys2Proof/Machine/Assembler.lean ====
section
/-! DEFINITION. The assembler's notation (R58, R59, R60): command names, pattern symbols, one line per request,
pseudo-instructions and the `RESET` line. No rule of the block depends on it. -/

namespace Sys2Proof.Machine

/-- The command names that are assembler symbols (R58; `IRQ_EN`, `IRQ_DIS`, `TEST_ON`, `READ_MODE` are not, R118). -/
inductive CmdName where
  | sysDis | sysEn | lcdOff | lcdOn | timerDis | wdtDis | timerEn | wdtEn | toneOff | toneOn | clrTimer | clrWdt
  | xtal32k | rc256k | ext256k
  | biasHalf2Com | biasHalf3Com | biasHalf4Com | biasThird2Com | biasThird3Com | biasThird4Com
  | tone4k | tone2k
deriving DecidableEq, Repr

/-- The code of a command name (the table of R58; from general knowledge, PRESUMED, log 2). -/
def CmdName.code : CmdName → Byte
  | .sysDis => 0x00
  | .sysEn => 0x02
  | .lcdOff => 0x04
  | .lcdOn => 0x06
  | .timerDis => 0x08
  | .wdtDis => 0x0A
  | .timerEn => 0x0C
  | .wdtEn => 0x0E
  | .toneOff => 0x10
  | .toneOn => 0x12
  | .clrTimer => 0x18
  | .clrWdt => 0x1C
  | .xtal32k => 0x28
  | .rc256k => 0x30
  | .ext256k => 0x38
  | .biasHalf2Com => 0x40
  | .biasHalf3Com => 0x48
  | .biasHalf4Com => 0x50
  | .biasThird2Com => 0x42
  | .biasThird3Com => 0x4A
  | .biasThird4Com => 0x52
  | .tone4k => 0x80
  | .tone2k => 0xC0

/-- The symbols for pattern indices (R59). -/
inductive PatSymbol where
  /-- `D0` to `D9`. -/
  | digit (n : Fin 10)
  | dash | underscore | letterH | letterE | letterL | letterP | space
deriving DecidableEq, Repr

/-- The pattern index of a symbol (R59, R83). -/
def PatSymbol.index : PatSymbol → Nat
  | .digit n => n.val
  | .dash => 10
  | .underscore => 11
  | .letterH => 12
  | .letterE => 13
  | .letterL => 14
  | .letterP => 15
  | .space => 16

/-- One line of assembler text (R59), the pseudo-instructions of R60 and the `.word` of program 5 among them. -/
inductive AsmLine where
  | init
  | sendcmd (cmd : Nat)
  | sendcmdName (cmd : CmdName)
  | wrbyte (address data : Nat)
  | clear (placeCount : Nat)
  | setdig (address value : Nat)
  | setdigdot (address value : Nat)
  | xmit (value bitCount : Nat)
  | lcdOn | lcdOff | sysEn | sysDis
  | blank (address : Nat)
  | clrByte (address : Nat)
  | word (w : ReqWord)
  | reset
deriving DecidableEq, Repr

/-- An operand that fits its 8-bit field; any other cannot be encoded (R59). -/
def operandByte (n : Nat) : Option Byte := if n < 256 then some (BitVec.ofNat 8 n) else none

/-- The expansion of a pseudo-instruction (R60); any other line is its own. -/
def AsmLine.expand : AsmLine → AsmLine
  | .lcdOn => .sendcmdName .lcdOn
  | .lcdOff => .sendcmdName .lcdOff
  | .sysEn => .sendcmdName .sysEn
  | .sysDis => .sendcmdName .sysDis
  | .blank a => .setdig a PatSymbol.space.index
  | .clrByte a => .wrbyte a 0
  | l => l

/-- Assembles a line of two operands. -/
def assembleTwo (c : Byte → Byte → Instr) (a b : Nat) : Option HostAction :=
  match operandByte a, operandByte b with
  | some a, some b => some (.request (encode (c a b)))
  | _, _ => none

/-- Assembles a line that is no pseudo-instruction; ignored operands are written 0 (R57, R59). -/
def AsmLine.assembleCore : AsmLine → Option HostAction
  | .init => assembleTwo .init 0 0
  | .sendcmd c => assembleTwo .sendcmd c 0
  | .sendcmdName c => assembleTwo .sendcmd c.code.toNat 0
  | .wrbyte a d => assembleTwo .wrbyte a d
  | .clear n => assembleTwo .clear n 0
  | .setdig a v => assembleTwo .setdig a v
  | .setdigdot a v => assembleTwo .setdigdot a v
  | .xmit v n => assembleTwo .xmit v n
  | .word w => some (.request w)
  | .reset => some (.reset none)
  | .lcdOn | .lcdOff | .sysEn | .sysDis | .blank _ | .clrByte _ => none

/-- The host action a line stands for: exactly one request, or the reset input (R59, R60). -/
def AsmLine.assemble (l : AsmLine) : Option HostAction := l.expand.assembleCore

end Sys2Proof.Machine
end

