-- ==== Sys2Proof/Machine/Flags.lean ====
section
/-! DEFINITION. The status register (R23): the codes of `LIFE` (R20) and `RSTAT` (R22, R87) and the read-only byte
`STATUS`. No operation has condition codes; `ERR` and `RSTAT` are written by Ops.lean's `raiseInvalidArgument`,
`complete` and `accept`. -/

namespace Sys2Proof.Machine

/-- The two-bit code of `LIFE` (R20). -/
def Life.code : Life → BitVec 2
  | .uninit => 0
  | .bound => 1
  | .inited => 2

/-- The two-bit status code (R22, R87). -/
def RespStatus.code : RespStatus → BitVec 2
  | .ok => 0
  | .invalidArgument => 1
  | .initFailure => 2

/-- `STATUS` (R23): bit 0 `BUSY`, bits 2:1 `LIFE`, bit 3 `ERR`, bits 5:4 `RSTAT`, bits 7:6 hardwired 0. -/
def State.statusByte (s : State) : Byte :=
  (0 : BitVec 2) ++ s.rstat.code ++ BitVec.ofBool s.err ++ s.life.code ++ BitVec.ofBool s.busy

end Sys2Proof.Machine
end

