-- ==== Sys2Proof/Machine/Views.lean ====
section
/-! DEFINITION. Views of an event list that the spec defines and no step uses: replayed levels (R28), what the chip
reconstructs (R67), frame bits (R73), framing (R72), counts (R70, R77) and least durations (R123, D14). -/

namespace Sys2Proof.Machine

/-- The level of line `p` after a list, from level `l`: that of its last `Set` event for `p`, or unchanged (R28). -/
def levelAfter (p : Pin) : List Event → Level → Level
  | [], l => l
  | .set q l' :: es, l => levelAfter p es (if q = p then l' else l)
  | .wait :: es, l => levelAfter p es l

/-- `Sampled(L)` (R67): the level of `DATA` at every rising edge of `WR`, from the given levels. -/
def sampled (wr data : Level) : List Event → List Level
  | [] => []
  | .set .cs _ :: es => sampled wr data es
  | .set .data d :: es => sampled wr d es
  | .set .wr false :: es => sampled false data es
  | .set .wr true :: es => if wr then sampled true data es else data :: sampled true data es
  | .wait :: es => sampled wr data es

/-- `SampledCS(L)` (R67): the same, but only the rising edges that occur while `CS = CS_ON`. -/
def sampledCs (cfg : Cfg) (cs wr data : Level) : List Event → List Level
  | [] => []
  | .set .cs l :: es => sampledCs cfg l wr data es
  | .set .data d :: es => sampledCs cfg cs wr d es
  | .set .wr false :: es => sampledCs cfg cs false data es
  | .set .wr true :: es =>
    if wr = false ∧ cs = cfg.csOn then data :: sampledCs cfg cs true data es
    else sampledCs cfg cs true data es
  | .wait :: es => sampledCs cfg cs wr data es

/-- `FrameBits(G)` (R73). -/
def frameBits (g : List Group) : List Level := g.flatMap fun x => topBits x.value x.count

/-- The framing discipline of R72, read along a list. The first argument says whether a frame is open. An open frame
admits any event but an asserting `CS` event; outside a frame only the asserting `CS` event may stand. The answer is
whether a frame is open at the end, or `none` where the discipline is broken. -/
def framing (cfg : Cfg) : Bool → List Event → Option Bool
  | o, [] => some o
  | true, .set .cs l :: es => if l = cfg.csOff then framing cfg false es else none
  | true, _ :: es => framing cfg true es
  | false, .set .cs l :: es => if l = cfg.csOn then framing cfg true es else none
  | false, _ :: _ => none

/-- How many frames a list opens (R72). -/
def frameCount (cfg : Cfg) (es : List Event) : Nat := es.count (.set .cs cfg.csOn)

/-- How many `Wait` events a list has (R70). -/
def waitCount (es : List Event) : Nat := es.count .wait

/-- How many `Set` events a list has (R70). -/
def setCount (es : List Event) : Nat := es.countP (· != .wait)

/-- The least duration of a list in microseconds, counting only the `Wait`s (R119, R123). -/
def leastMicros (cfg : Cfg) (es : List Event) : Nat := waitCount es * cfg.tSettleUs

/-- The clock cycles the settle timer counts for one `Wait`: `ceil(T_SETTLE * F_CLK)` (D14). -/
def settleCycles (cfg : Cfg) : Nat := (cfg.tSettleUs * cfg.fClkHz + 999999) / 1000000

/-- `n` engine steps, one after another (R27). -/
def engineRun : Nat → State → Host.Outcome State Fault Refusal
  | 0, s => .next s
  | n + 1, s =>
    match engineStep s with
    | .next t => engineRun n t
    | .fault r => .fault r
    | .refused r => .refused r

end Sys2Proof.Machine
end

