-- ==== Sys2Proof/Safety.lean ====
section
/-! DEFINITION. What counts as a state of a proper run: the invariant every step keeps, and the premise
"no fault recorded" (R125). -/

namespace Sys2Proof.Machine

/-- The states runs from reset can be in, as far as the statements need it. -/
structure Inv (s : State) : Prop where
  /-- Reset has been taken (R106). -/
  alive : s.life ≠ .uninit
  /-- `CS` is at the level `TRACE` leaves it at, from its idle level (R14, R105). -/
  csReplay : s.cs = levelAfter .cs s.trace s.cfg.csOff
  /-- The same for `WR`. -/
  wrReplay : s.wr = levelAfter .wr s.trace s.cfg.wrIdle
  /-- The same for `DATA`. -/
  dataReplay : s.data = levelAfter .data s.trace s.cfg.dataIdle
  /-- Between operations chip-select is released (R72, R89). -/
  idleReleased : s.busy = false → s.cs = s.cfg.csOff
  /-- In mid-operation `UPC` stands at an event of the operation and the state is what its first `UPC` entries make
  of a state with chip-select released (R19, R27). -/
  running : s.busy = true → s.upc.toNat < s.ev.length ∧
    ∃ s0 : State, s0.cs = s.cfg.csOff ∧ s0.upc = 0 ∧ s = s0.performAll (s.ev.take s.upc.toNat)
  /-- `RSTAT` is the status of the last response (R22). -/
  lastStatus : s.rstat = s.responses.getLastD .ok
  /-- Only `OK` and `InvalidArgument` are ever given (R22, R95). -/
  statusKinds : ∀ r ∈ s.responses, r = .ok ∨ r = .invalidArgument
  /-- `ERR` says whether any request since reset has raised `InvalidArgument` (R21). -/
  errRecords : s.err = true ↔ .invalidArgument ∈ s.responses

/-- "No fault recorded" (R125 b). -/
def State.noFaultRecorded (s : State) : Prop := s.err = false

/-- The host's next action is no reset: the step belongs to the same run (R124). -/
def State.noResetNext (s : State) : Prop := ∀ w rest, s.agenda ≠ .reset w :: rest

/-- A step of the block from `s`, reset apart, completes an `INIT` (R109): the request taken in one step is an `INIT`,
or the event at `UPC` is the last of a running one. Before the first reset nothing completes (R106). -/
def State.initCompletes (s : State) : Prop :=
  s.life ≠ .uninit ∧
    ((s.reqReady = true ∧ ∃ w rest, s.agenda = .request w :: rest ∧ opField w = 1) ∨
     (s.busy = true ∧ s.op = 1 ∧ s.upc.toNat + 1 = (opEvents s.cfg s.op s.a s.b).length))

/-- What every completed operation with a non-empty event list `es` leaves, apart from the lines, `SR`, `IDX` and
`LIFE` (R26, R27, R28): the latches, the events, the response. -/
def State.finished (s : State) (i : Instr) (es : List Event) : State :=
  { s with
    op := i.op, a := i.a, b := i.b, bc := 0, busy := false, upc := BitVec.ofNat 14 es.length,
    rstat := .ok, trace := s.trace ++ es, responses := s.responses ++ [.ok] }

/-- What a request that raises `InvalidArgument` leaves (R90, R92, R93): nothing but the record of the fault. -/
def State.faulted (s : State) : State :=
  { s with err := true, rstat := .invalidArgument, responses := s.responses ++ [.invalidArgument] }

/-- The state in which a legal request with a non-empty event list starts (R26). -/
def State.accepted (s : State) (i : Instr) : State :=
  { s with op := i.op, a := i.a, b := i.b, upc := 0, busy := true }

/-- Requests taken one after another, each in one step (R124). -/
def execAll : List Instr → State → Host.Outcome State Fault Refusal
  | [], s => .next s
  | i :: is, s =>
    match exec i s with
    | .next t => execAll is t
    | .fault r => .fault r
    | .refused r => .refused r

/-- Two states the three lines and the `TRACE` cannot tell apart (R24, R86). -/
def State.sameWire (s t : State) : Prop :=
  s.trace = t.trace ∧ s.cs = t.cs ∧ s.wr = t.wr ∧ s.data = t.data

end Sys2Proof.Machine
end

