-- ==== Sys2Proof/Certificates/Slice0/Obligations.lean ====
section
/-! DEFINITION. The statements for the provers, each a named proposition about the model, with the rule of the spec it
formalises. -/

open Sys2Proof Sys2Proof.Machine

/-! ### Encoding -/

/-- R53, R54, R59: decoding the encoded request gives it back, for every request and every operand value. -/
def Obligations.DecodeOfEncode : Prop := ∀ i : Instr, decode (encode i) = i

/-- R53, R62: encoding the decoded request gives the word back, for all 2^19 words: each word is one request. -/
def Obligations.EncodeOfDecode : Prop := ∀ w : ReqWord, encode (decode w) = w

/-- R54, with the words of 95_test_vectors.md: one word of each row decodes to its request. -/
def Obligations.VectorWordsDecode : Prop :=
  decode 0x0FFFF = .reserved0 0xFF 0xFF ∧ decode 0x1ABCD = .init 0xAB 0xCD ∧
  decode 0x20277 = .sendcmd 0x02 0x77 ∧ decode 0x305FD = .wrbyte 5 0xFD ∧ decode 0x48000 = .clear 128 0 ∧
  decode 0x50210 = .setdig 2 16 ∧ decode 0x60310 = .setdigdot 3 16 ∧ decode 0x7FF08 = .xmit 0xFF 8

/-- R62 with the fields of R53, the codes of R54 and the ranges of R55 and R56: `Decode` is total, gives the operation
when the operands are in range, and `InvalidArgument` otherwise, for every `CLEAR_MAX` of R5, by default 128. -/
def Obligations.DecodeIsTotalAndChecksRanges : Prop :=
  Cfg.default.clearMax.val = 128 ∧ ∀ (cfg : Cfg) (w : ReqWord),
    let a : Byte := w.extractLsb' 8 8
    let b : Byte := w.extractLsb' 0 8
    decodeLegal cfg w =
      match (w.extractLsb' 16 3 : BitVec 3).toNat with
      | 1 => .ok (.init a b)
      | 2 => .ok (.sendcmd a b)
      | 3 => if a.toNat ≤ 127 then .ok (.wrbyte a b) else .error .invalidArgument
      | 4 => if a.toNat ≤ cfg.clearMax.val then .ok (.clear a b) else .error .invalidArgument
      | 5 => if a.toNat ≤ 127 ∧ b.toNat ≤ 16 then .ok (.setdig a b) else .error .invalidArgument
      | 6 => if a.toNat ≤ 127 ∧ b.toNat ≤ 16 then .ok (.setdigdot a b) else .error .invalidArgument
      | 7 => if 1 ≤ b.toNat ∧ b.toNat ≤ 8 then .ok (.xmit a b) else .error .invalidArgument
      | _ => .error .invalidArgument

/-- R60: each pseudo-instruction assembles to the one request its expansion assembles to. -/
def Obligations.PseudoInstructionsExpand : Prop :=
  AsmLine.lcdOn.assemble = some (.request (encode (.sendcmd 0x06 0))) ∧
  AsmLine.lcdOff.assemble = some (.request (encode (.sendcmd 0x04 0))) ∧
  AsmLine.sysEn.assemble = some (.request (encode (.sendcmd 0x02 0))) ∧
  AsmLine.sysDis.assemble = some (.request (encode (.sendcmd 0x00 0))) ∧
  (∀ a : Byte, (AsmLine.blank a.toNat).assemble = some (.request (encode (.setdig a 16)))) ∧
  (∀ a : Byte, (AsmLine.clrByte a.toNat).assemble = some (.request (encode (.wrbyte a 0))))

/-! ### The step -/

/-- R26, R28: a step whose host presents a request to a ready port is `exec` of the decoded request, on the state from
which the host's action has been taken. -/
def Obligations.StepRunsDecodedRequest : Prop :=
  ∀ (s : State) (w : ReqWord) (rest : List HostAction),
    s.agenda = .request w :: rest → s.reqReady = true → step s = exec (decode w) { s with agenda := rest }

/-- A number the decoder reads, placed by `withFetchWord`, is what the next step runs on a ready block (log 11). -/
def Obligations.PlacedWordRunsNext : Prop :=
  ∀ (s : State) (nbits w : Nat) (i : Instr),
    decodeTableWord nbits w = some i → s.reqReady = true → step (s.withFetchWord nbits w) = exec i s

/-- R26, R104: while the port is not ready a request, presented either way, stays first on the agenda, nothing of it
is done, and the step is the block's own: one engine step, or before the first reset none. -/
def Obligations.StepHoldsRequestWhileNotReady : Prop :=
  ∀ (s : State) (w : ReqWord) (rest : List HostAction),
    s.agenda = .request w :: rest ∨ s.agenda = .issue w :: rest → s.reqReady = false →
      (s.life = .uninit → step s = .next s) ∧
      (s.life ≠ .uninit → step s = engineStep s ∧
        ∀ t, step s = .next t → t.agenda = s.agenda ∧ t.op = s.op ∧ t.a = s.a ∧ t.b = s.b ∧ t.err = s.err)

/-- R26: the host step `Issue(w)` on a ready port. A word that is not legal records the fault and nothing else; an
empty event list, which only `CLEAR` with `A = 0` has, is answered at once; any other legal word sets `BUSY`. -/
def Obligations.IssueStepAcceptsOrFaults : Prop :=
  ∀ (s : State) (w : ReqWord) (rest : List HostAction),
    s.agenda = .issue w :: rest → s.reqReady = true →
      step s = .next
        (let s1 := { s with agenda := rest }
         if (decode w).wellFormed s.cfg then
           if opField w = 4 ∧ aField w = 0 then
             { s1 with op := 4, a := 0, b := bField w, idx := 0, upc := 0, rstat := .ok,
                       responses := s.responses ++ [.ok] }
           else { s1 with op := opField w, a := aField w, b := bField w, upc := 0, busy := true }
         else s1.faulted)

/-- R27: an engine step appends exactly the event at `UPC`, advances `UPC`, and only the last one clears `BUSY`,
gives the response `OK` and, for `INIT`, moves `LIFE`. -/
def Obligations.EngineStepPerformsOneEvent : Prop :=
  ∀ (s : State) (e : Event),
    s.busy = true → (opEvents s.cfg s.op s.a s.b)[s.upc.toNat]? = some e →
      ∃ t, engineStep s = .next t ∧ t.trace = s.trace ++ [e] ∧ t.upc = s.upc + 1 ∧
        t.cs = levelAfter .cs [e] s.cs ∧ t.wr = levelAfter .wr [e] s.wr ∧ t.data = levelAfter .data [e] s.data ∧
        (if s.upc.toNat + 1 = (opEvents s.cfg s.op s.a s.b).length then
           t.busy = false ∧ t.rstat = .ok ∧ t.responses = s.responses ++ [.ok] ∧
             t.life = (if s.op = 1 then .inited else s.life)
         else t.busy = true ∧ t.rstat = s.rstat ∧ t.responses = s.responses ∧ t.life = s.life)

/-- R28: on a ready port, `Issue` of a legal word followed by exactly `len(EV)` engine steps gives what `exec` gives
in one step. -/
def Obligations.BigStepIsIssueThenEngineSteps : Prop :=
  ∀ (s : State) (w : ReqWord),
    s.reqReady = true → (decode w).wellFormed s.cfg = true →
      engineRun (opEvents s.cfg (opField w) (aField w) (bField w)).length (s.issue w) = exec (decode w) s

/-- R19, R27, R41: after `k` of the `len(EV)` engine steps the block is busy, `UPC = k`, exactly the first `k` events
have been emitted, the lines stand where those events leave them, and no response has been given. -/
def Obligations.MidOperationShowsFirstEvents : Prop :=
  ∀ (s : State) (w : ReqWord) (k : Nat),
    s.reqReady = true → (decode w).wellFormed s.cfg = true →
    k < (opEvents s.cfg (opField w) (aField w) (bField w)).length →
      ∃ t, engineRun k (s.issue w) = .next t ∧
        let es := (opEvents s.cfg (opField w) (aField w) (bField w)).take k
        t.busy = true ∧ t.upc.toNat = k ∧ t.trace = s.trace ++ es ∧
        t.cs = levelAfter .cs es s.cs ∧ t.wr = levelAfter .wr es s.wr ∧ t.data = levelAfter .data es s.data ∧
        t.responses = s.responses ∧ t.rstat = s.rstat ∧ t.life = s.life ∧ t.err = s.err

/-- R15, R64: whenever the next event of a running operation drives `DATA`, the level it drives is `SR[7]`. -/
def Obligations.DataDriveIsShiftRegisterMsb : Prop :=
  ∀ (s : State) (l : Level),
    Inv s → s.busy = true → (opEvents s.cfg s.op s.a s.b)[s.upc.toNat]? = some (.set .data l) →
      s.sr.getLsbD 7 = l

/-! ### The serializer -/

/-- R65: the register effects of `Xmit(v, n)`: at its first event, after each bit `k`, and at its end. -/
def Obligations.XmitRegisterEffects : Prop :=
  ∀ (s : State) (v : Byte) (n : Nat), 1 ≤ n → n ≤ 8 →
    (s.performAll ((xmitMicros v n).take 1)).sr = v ∧
    (s.performAll ((xmitMicros v n).take 1)).bc = BitVec.ofNat 4 n ∧
    (∀ k, 1 ≤ k → k ≤ n →
      (s.performAll ((xmitMicros v n).take (6 * k))).sr = v <<< k ∧
      (s.performAll ((xmitMicros v n).take (6 * k))).bc = BitVec.ofNat 4 (n - k)) ∧
    (s.performAll (xmitMicros v n)).sr = v <<< n ∧ (s.performAll (xmitMicros v n)).bc = 0 ∧
    (n = 8 → (s.performAll (xmitMicros v n)).sr = 0) ∧
    (s.performAll (xmitMicros v n)).wr = true ∧ (s.performAll (xmitMicros v n)).data = v.getLsbD (8 - n) ∧
    (s.performAll (xmitMicros v n)).cs = s.cs

/-- R67: from any starting levels the rising clock edges of `Xmit(v, n)` reconstruct the top `n` bits of `v`, most
significant first; a chip that is not selected samples none of them. -/
def Obligations.SerializerReconstructsTopBits : Prop :=
  ∀ (v : Byte) (n : Nat), 1 ≤ n → n ≤ 8 → ∀ (cfg : Cfg) (wr data : Level),
    (sampled wr data (xmitEvents v n)).length = n ∧
    (∀ k, k < n → (sampled wr data (xmitEvents v n))[k]? = some (v.getLsbD (7 - k))) ∧
    sampledCs cfg cfg.csOff wr data (xmitEvents v n) = [] ∧
    sampledCs cfg cfg.csOn wr data (xmitEvents v n) = sampled wr data (xmitEvents v n)

/-- R70 and the counts of R77, with the least durations of R123, for every operation. -/
def Obligations.EventCountsAndLeastDurations : Prop :=
  ∀ cfg : Cfg,
    (∀ (v : Byte) (n : Nat), 1 ≤ n → n ≤ 8 → setCount (xmitEvents v n) = 3 * n ∧ waitCount (xmitEvents v n) = 3 * n ∧
      (xmitEvents v n).length = 6 * n ∧ leastMicros cfg (xmitEvents v n) = 3 * n * cfg.tSettleUs) ∧
    (∀ c : Byte, (cmdFrame cfg c).length = 74 ∧ setCount (cmdFrame cfg c) = 38 ∧ waitCount (cmdFrame cfg c) = 36 ∧
      leastMicros cfg (cmdFrame cfg c) = 36 * cfg.tSettleUs) ∧
    (∀ a d : Byte, (wrFrame cfg a d).length = 104 ∧ setCount (wrFrame cfg a d) = 53 ∧
      waitCount (wrFrame cfg a d) = 51 ∧ leastMicros cfg (wrFrame cfg a d) = 51 * cfg.tSettleUs) ∧
    (∀ a b : Byte, (opEvents cfg 1 a b).length = 296 ∧ leastMicros cfg (opEvents cfg 1 a b) = 144 * cfg.tSettleUs) ∧
    (∀ a b : Byte, a.toNat ≤ cfg.clearMax.val → (opEvents cfg 4 a b).length = 104 * a.toNat ∧
      leastMicros cfg (opEvents cfg 4 a b) = 51 * a.toNat * cfg.tSettleUs)

/-! ### Frames -/

/-- R73: replayed from any levels, a selected chip sees exactly the frame's bits, for every list of groups; the frame
has `2 + 6 * (n1 + ... + nk)` events and leaves the lines, `SR` and `BC` as its last group says. -/
def Obligations.SelectedChipSeesFrameBits : Prop :=
  ∀ (cfg : Cfg) (g : List Group) (cs wr data : Level),
    (∀ x ∈ g, 1 ≤ x.count ∧ x.count ≤ 8) →
      sampledCs cfg cs wr data (frameEvents cfg g) = frameBits g ∧
      (frameEvents cfg g).length = 2 + 6 * (g.map Group.count).sum ∧
      ∀ (s : State) (x : Group), g.getLast? = some x →
        let t := s.performAll (frameMicros cfg none none g)
        t.trace = s.trace ++ frameEvents cfg g ∧ t.cs = cfg.csOff ∧ t.wr = true ∧
        (frameBits g).getLast? = some t.data ∧ t.sr = x.value <<< x.count ∧ t.bc = 0

/-- R47: the twelve wire bits of a command frame, as a selected chip samples them. -/
def Obligations.CommandFrameWireBits : Prop :=
  ∀ (cfg : Cfg) (c : Byte) (cs wr data : Level),
    sampledCs cfg cs wr data (cmdFrame cfg c) =
      [cfg.cmdPrefix.getLsbD 3, cfg.cmdPrefix.getLsbD 2, cfg.cmdPrefix.getLsbD 1, cfg.cmdPrefix.getLsbD 0,
       c.getLsbD 7, c.getLsbD 6, c.getLsbD 5, c.getLsbD 4, c.getLsbD 3, c.getLsbD 2, c.getLsbD 1, c.getLsbD 0]

/-- R48: the seventeen wire bits of a write frame: prefix, five address bits, a 0, eight data bits. -/
def Obligations.WriteFrameWireBits : Prop :=
  ∀ (cfg : Cfg) (a d : Byte) (cs wr data : Level),
    sampledCs cfg cs wr data (wrFrame cfg a d) =
      [cfg.wrPrefix.getLsbD 2, cfg.wrPrefix.getLsbD 1, cfg.wrPrefix.getLsbD 0,
       a.getLsbD 4, a.getLsbD 3, a.getLsbD 2, a.getLsbD 1, a.getLsbD 0, false,
       d.getLsbD 7, d.getLsbD 6, d.getLsbD 5, d.getLsbD 4, d.getLsbD 3, d.getLsbD 2, d.getLsbD 1, d.getLsbD 0]

/-- R36: two write frames are the same exactly when their addresses agree modulo 32 and their data agree. -/
def Obligations.AddressesAliasModulo32 : Prop :=
  ∀ (cfg : Cfg) (a a' d d' : Byte),
    wrFrame cfg a d = wrFrame cfg a' d' ↔ a.toNat % 32 = a'.toNat % 32 ∧ d = d'

/-- R72, R82: every legal framed operation keeps the framing discipline from end to end and opens exactly as many
frames as its rule says; `XMIT` has no chip-select event. -/
def Obligations.OperationsKeepFraming : Prop :=
  ∀ (cfg : Cfg) (i : Instr), i.wellFormed cfg = true →
    match i with
    | .reserved0 _ _ => False
    | .xmit v n => ∀ l, .set .cs l ∉ opEvents cfg 7 v n
    | .init a b => framing cfg false (opEvents cfg 1 a b) = some false ∧ frameCount cfg (opEvents cfg 1 a b) = 4
    | .clear a b =>
      framing cfg false (opEvents cfg 4 a b) = some false ∧ frameCount cfg (opEvents cfg 4 a b) = a.toNat
    | .sendcmd a b => framing cfg false (opEvents cfg 2 a b) = some false ∧ frameCount cfg (opEvents cfg 2 a b) = 1
    | .wrbyte a b => framing cfg false (opEvents cfg 3 a b) = some false ∧ frameCount cfg (opEvents cfg 3 a b) = 1
    | .setdig a b => framing cfg false (opEvents cfg 5 a b) = some false ∧ frameCount cfg (opEvents cfg 5 a b) = 1
    | .setdigdot a b => framing cfg false (opEvents cfg 6 a b) = some false ∧ frameCount cfg (opEvents cfg 6 a b) = 1

/-! ### The operations: encoding, effect with everything else unchanged, exception -/

/-- R56: every word with `op = 0` raises `InvalidArgument` and emits nothing; nothing but the fault's record changes. -/
def Obligations.Reserved0RaisesInvalidArgument : Prop :=
  ∀ (a b : Byte) (s : State), s.reqReady = true → exec (.reserved0 a b) s = .next s.faulted

/-- R68: `XMIT value, bitCount`. -/
def Obligations.XmitSendsTopBits : Prop :=
  ∀ (a b : Byte),
    encode (.xmit a b) = 0x70000 ||| (a.setWidth 19 <<< 8) ||| b.setWidth 19 ∧
    ∀ s : State, s.reqReady = true →
      (1 ≤ b.toNat → b.toNat ≤ 8 →
        exec (.xmit a b) s = .next
          { s.finished (.xmit a b) (xmitEvents a b.toNat) with
            wr := true, data := a.getLsbD (8 - b.toNat), sr := a <<< b.toNat } ∧
        (xmitEvents a b.toNat).length = 6 * b.toNat ∧
        sampledCs s.cfg s.cfg.csOff s.wr s.data (xmitEvents a b.toNat) = []) ∧
      (b.toNat = 0 ∨ 9 ≤ b.toNat → exec (.xmit a b) s = .next s.faulted)

/-- R74: `SENDCMD cmd`, every code, in every lifecycle state after reset. -/
def Obligations.SendcmdSendsCommandFrame : Prop :=
  ∀ (a b : Byte),
    encode (.sendcmd a b) = 0x20000 ||| (a.setWidth 19 <<< 8) ||| b.setWidth 19 ∧
    ∀ s : State, s.reqReady = true →
      exec (.sendcmd a b) s = .next
        { s.finished (.sendcmd a b) (cmdFrame s.cfg a) with
          cs := s.cfg.csOff, wr := true, data := a.getLsbD 0, sr := 0 } ∧
      (cmdFrame s.cfg a).length = 74 ∧
      sampledCs s.cfg s.cs s.wr s.data (cmdFrame s.cfg a) =
        [s.cfg.cmdPrefix.getLsbD 3, s.cfg.cmdPrefix.getLsbD 2, s.cfg.cmdPrefix.getLsbD 1, s.cfg.cmdPrefix.getLsbD 0,
         a.getLsbD 7, a.getLsbD 6, a.getLsbD 5, a.getLsbD 4, a.getLsbD 3, a.getLsbD 2, a.getLsbD 1, a.getLsbD 0]

/-- R76: `WRBYTE address, data`. -/
def Obligations.WrbyteSendsWriteFrame : Prop :=
  ∀ (a b : Byte),
    encode (.wrbyte a b) = 0x30000 ||| (a.setWidth 19 <<< 8) ||| b.setWidth 19 ∧
    ∀ s : State, s.reqReady = true →
      (a.toNat ≤ 127 →
        exec (.wrbyte a b) s = .next
          { s.finished (.wrbyte a b) (wrFrame s.cfg a b) with
            cs := s.cfg.csOff, wr := true, data := b.getLsbD 0, sr := 0 } ∧
        (wrFrame s.cfg a b).length = 104) ∧
      (128 ≤ a.toNat → exec (.wrbyte a b) s = .next s.faulted)

/-- R80: `INIT`: the four command frames in the fixed order, `IDX = 4`, `LIFE = INITED`. -/
def Obligations.InitSendsFourCommandFrames : Prop :=
  ∀ (a b : Byte),
    encode (.init a b) = 0x10000 ||| (a.setWidth 19 <<< 8) ||| b.setWidth 19 ∧
    ∀ s : State, s.reqReady = true →
      exec (.init a b) s = .next
        { s.finished (.init a b)
            (cmdFrame s.cfg s.cfg.cmdRc256k ++ cmdFrame s.cfg s.cfg.cmdBiasThird4Com ++
              cmdFrame s.cfg s.cfg.cmdSysEn ++ cmdFrame s.cfg s.cfg.cmdLcdOn) with
          cs := s.cfg.csOff, wr := true, data := s.cfg.cmdLcdOn.getLsbD 0, sr := 0, idx := 4, life := .inited }

/-- R81: `CLEAR placeCount`: the empty clear, the write frames of zero in ascending order with `IDX = i` during frame
`i`, and the count above `CLEAR_MAX`, which is 128 by default and never more. -/
def Obligations.ClearWritesZerosInOrder : Prop :=
  Cfg.default.clearMax.val = 128 ∧ ∀ (a b : Byte),
    encode (.clear a b) = 0x40000 ||| (a.setWidth 19 <<< 8) ||| b.setWidth 19 ∧
    ∀ s : State, s.reqReady = true →
      (a = 0 → exec (.clear a b) s = .next
        { s with op := 4, a := 0, b := b, idx := 0, upc := 0, rstat := .ok, responses := s.responses ++ [.ok] }) ∧
      (1 ≤ a.toNat → a.toNat ≤ s.cfg.clearMax.val →
        exec (.clear a b) s = .next
          { s.finished (.clear a b) ((List.range a.toNat).flatMap fun i => wrFrame s.cfg (BitVec.ofNat 8 i) 0) with
            cs := s.cfg.csOff, wr := true, data := false, sr := 0, idx := a } ∧
        ∀ i j, i < a.toNat → 1 ≤ j → j < 104 →
          ((s.accepted (.clear a b)).performAll ((clearMicros s.cfg a).take (104 * i + j))).idx = BitVec.ofNat 8 i) ∧
      (s.cfg.clearMax.val < a.toNat ∨ 129 ≤ a.toNat → exec (.clear a b) s = .next s.faulted)

/-- R84: `SETDIG address, value`: the write frame of the table's byte. -/
def Obligations.SetdigWritesPattern : Prop :=
  ∀ (a b : Byte),
    encode (.setdig a b) = 0x50000 ||| (a.setWidth 19 <<< 8) ||| b.setWidth 19 ∧
    ∀ s : State, s.reqReady = true →
      (a.toNat ≤ 127 → b.toNat ≤ 16 →
        ∃ d, patRead s.cfg b = some d ∧
          exec (.setdig a b) s = .next
            { s.finished (.setdig a b) (wrFrame s.cfg a d) with
              cs := s.cfg.csOff, wr := true, data := d.getLsbD 0, sr := 0 } ∧
          (wrFrame s.cfg a d).length = 104) ∧
      (128 ≤ a.toNat ∨ 17 ≤ b.toNat → exec (.setdig a b) s = .next s.faulted)

/-- R85: `SETDIGDOT address, value`: the same with 0x08 ORed into the byte; `DATA` ends at bit 0 of the pattern. -/
def Obligations.SetdigdotWritesPatternWithDot : Prop :=
  ∀ (a b : Byte),
    encode (.setdigdot a b) = 0x60000 ||| (a.setWidth 19 <<< 8) ||| b.setWidth 19 ∧
    ∀ s : State, s.reqReady = true →
      (a.toNat ≤ 127 → b.toNat ≤ 16 →
        ∃ d, patRead s.cfg b = some d ∧
          exec (.setdigdot a b) s = .next
            { s.finished (.setdigdot a b) (wrFrame s.cfg a (d ||| 0x08)) with
              cs := s.cfg.csOff, wr := true, data := d.getLsbD 0, sr := 0 } ∧
          (wrFrame s.cfg a (d ||| 0x08)).length = 104) ∧
      (128 ≤ a.toNat ∨ 17 ≤ b.toNat → exec (.setdigdot a b) s = .next s.faulted)

/-- R83: the pattern table is defined for indices 0 to 16 and only there; entry 0 is 0xF5, entry `i` is the
configuration's. -/
def Obligations.PatternTableIsDefinedTo16 : Prop :=
  ∀ (cfg : Cfg) (i : Byte),
    patRead cfg 0 = some 0xF5 ∧ ((patRead cfg i).isSome = true ↔ i.toNat ≤ 16) ∧
    ∀ k (h : k < 16), i.toNat = k + 1 → patRead cfg i = some cfg.patRest[k]

/-- R18: during frame `i` of `INIT` and of `CLEAR` `IDX = i`, after them it is the number of frames, and no other
operation writes it. -/
def Obligations.FrameCounterCountsFrames : Prop :=
  ∀ (s : State), s.reqReady = true →
    (∀ (a b : Byte) (i j : Nat), i < 4 → 1 ≤ j → j < 74 →
      ((s.accepted (.init a b)).performAll ((initMicros s.cfg).take (74 * i + j))).idx = BitVec.ofNat 8 i) ∧
    (∀ (a b : Byte) (i j : Nat), i < a.toNat → a.toNat ≤ 128 → 1 ≤ j → j < 104 →
      ((s.accepted (.clear a b)).performAll ((clearMicros s.cfg a).take (104 * i + j))).idx = BitVec.ofNat 8 i) ∧
    (∀ (i : Instr), i.wellFormed s.cfg = true → ∃ t, exec i s = .next t ∧
      t.idx = match i with
        | .init _ _ => 4
        | .clear a _ => a
        | _ => s.idx)

/-! ### Equivalences, ignored fields, independence -/

/-- R86, the source's examples: `SETDIG a, v` is `WRBYTE a, PAT[v]` and `SETDIGDOT a, v` is `WRBYTE a, PAT[v] | 0x08`
on the wire; with `v = 0` the bytes are 0xF5 and 0xFD. -/
def Obligations.DigitOperationsAreByteWrites : Prop :=
  ∀ (s : State) (a v : Byte), s.reqReady = true → a.toNat ≤ 127 → v.toNat ≤ 16 →
    ∃ d t u t' u', patRead s.cfg v = some d ∧ (v = 0 → d = 0xF5 ∧ d ||| 0x08 = 0xFD) ∧
      exec (.setdig a v) s = .next t ∧ exec (.wrbyte a d) s = .next u ∧ t.sameWire u ∧
      exec (.setdigdot a v) s = .next t' ∧ exec (.wrbyte a (d ||| 0x08)) s = .next u' ∧ t'.sameWire u'

/-- R86: `CLEAR n` is `WRBYTE 0, 0; ...; WRBYTE n-1, 0` on the wire. -/
def Obligations.ClearIsSuccessiveByteWrites : Prop :=
  ∀ (s : State) (a b : Byte), s.reqReady = true → a.toNat ≤ s.cfg.clearMax.val →
    ∃ t u, exec (.clear a b) s = .next t ∧
      execAll ((List.range a.toNat).map fun i => .wrbyte (BitVec.ofNat 8 i) 0) s = .next u ∧
      t.sameWire u ∧ t.life = u.life ∧ t.err = u.err ∧ t.rstat = .ok ∧
      u.responses = s.responses ++ List.replicate a.toNat .ok

/-- R60, R86: `INIT` is the four `SENDCMD`s on the wire, and only `INIT` moves `LIFE`. -/
def Obligations.InitIsFourCommandsButForLife : Prop :=
  ∀ (s : State) (a b : Byte), s.reqReady = true →
    ∃ t u, exec (.init a b) s = .next t ∧
      execAll [.sendcmd s.cfg.cmdRc256k 0, .sendcmd s.cfg.cmdBiasThird4Com 0, .sendcmd s.cfg.cmdSysEn 0,
        .sendcmd s.cfg.cmdLcdOn 0] s = .next u ∧
      t.sameWire u ∧ t.life = .inited ∧ u.life = s.life

/-- R57: an ignored operand field changes neither legality nor the event list; it is only latched. The assembler
writes it as 0. -/
def Obligations.IgnoredFieldsAreOnlyLatched : Prop :=
  AsmLine.init.assemble = some (.request (encode (.init 0 0))) ∧
  (∀ a : Byte, (AsmLine.sendcmd a.toNat).assemble = some (.request (encode (.sendcmd a 0))) ∧
    (AsmLine.clear a.toNat).assemble = some (.request (encode (.clear a 0)))) ∧
  ∀ (s : State) (a a' b b' : Byte), s.reqReady = true →
    (∃ t u, exec (.init a b) s = .next t ∧ exec (.init a' b') s = .next u ∧ u = { t with a := a', b := b' }) ∧
    (∃ t u, exec (.sendcmd a b) s = .next t ∧ exec (.sendcmd a b') s = .next u ∧ u = { t with b := b' }) ∧
    (a.toNat ≤ s.cfg.clearMax.val →
      ∃ t u, exec (.clear a b) s = .next t ∧ exec (.clear a b') s = .next u ∧ u = { t with b := b' }) ∧
    (s.cfg.clearMax.val < a.toNat → exec (.clear a b) s = exec (.clear a b') s)

/-- R20, R21, R29: neither `LIFE` nor `ERR` nor `RSTAT` nor any residual register changes what a request does: from
two ready states with the same configuration it appends the same events and gets the same response. -/
def Obligations.StatusAndResidueChangeNoOperation : Prop :=
  ∀ (i : Instr) (s s' : State), s.reqReady = true → s'.reqReady = true → s.cfg = s'.cfg →
    ∃ t t' es r, exec i s = .next t ∧ exec i s' = .next t' ∧
      t.trace = s.trace ++ es ∧ t'.trace = s'.trace ++ es ∧
      t.responses = s.responses ++ [r] ∧ t'.responses = s'.responses ++ [r]

/-- R26, R88, R89, R104: a request to a ready port gets exactly one response: `OK` when its operands are in range,
else `InvalidArgument` with no event. -/
def Obligations.EveryRequestGetsOneResponse : Prop :=
  ∀ (i : Instr) (s : State), s.reqReady = true →
    ∃ t, exec i s = .next t ∧
      t.responses = s.responses ++ [if i.wellFormed s.cfg then .ok else .invalidArgument] ∧
      t.reqReady = true ∧ (i.wellFormed s.cfg = false → t.trace = s.trace ∧ t.cs = s.cs ∧ t.wr = s.wr ∧ t.data = s.data)

/-- R26 (log 9): `exec` on a port that is not ready takes nothing of the request; the block makes its own step. -/
def Obligations.ExecHoldsWhileNotReady : Prop :=
  ∀ (i : Instr) (s : State), s.reqReady = false → exec i s = pass s

/-! ### Status, lifecycle, reset -/

/-- R23 with the codes of R20 and R22: the layout of `STATUS`. -/
def Obligations.StatusByteLayout : Prop :=
  ∀ s : State,
    s.statusByte.getLsbD 0 = s.busy ∧ s.statusByte.extractLsb' 1 2 = (match s.life with | .uninit => 0 | .bound => 1 | .inited => 2) ∧
    s.statusByte.getLsbD 3 = s.err ∧
    s.statusByte.extractLsb' 4 2 = (match s.rstat with | .ok => 0 | .invalidArgument => 1 | .initFailure => 2) ∧
    s.statusByte.extractLsb' 6 2 = 0

/-- R30: the values the spec gives the state after reset, with the default levels of R5; `STATUS` is 0x02. (The zeros
of `SR`, `BC`, `OP`, `A`, `B`, `IDX` are the model's choice, log 5, and not stated here.) -/
def Obligations.ResetStateValues : Prop :=
  State.reset.cs = true ∧ State.reset.wr = true ∧ State.reset.data = true ∧ State.reset.busy = false ∧
  State.reset.upc = 0 ∧ State.reset.life = .bound ∧ State.reset.err = false ∧ State.reset.rstat = .ok ∧
  State.reset.trace = [] ∧ State.reset.statusByte = 0x02

/-- R105, R107: reset, taken from any state, a running operation included, has the listed effect; a request presented
with it is lost, no response is given, and the configuration stays. -/
def Obligations.ResetFromAnyState : Prop :=
  ∀ (s : State) (w : Option ReqWord) (rest : List HostAction), s.agenda = .reset w :: rest →
    ∃ t, step s = .next t ∧ t.cs = s.cfg.csOff ∧ t.wr = s.cfg.wrIdle ∧ t.data = s.cfg.dataIdle ∧
      t.busy = false ∧ t.upc = 0 ∧ t.life = .bound ∧ t.err = false ∧ t.rstat = .ok ∧ t.trace = [] ∧
      t.responses = [] ∧ t.statusByte = 0x02 ∧ t.reqReady = true ∧ t.cfg = s.cfg ∧ t.agenda = rest

/-- R106: before the first reset only reset does anything: any other step changes at most the host's agenda. -/
def Obligations.OnlyResetBeforeFirstReset : Prop :=
  ∀ s : State, s.life = .uninit → s.noResetNext → ∃ rest, step s = .next { s with agenda := rest }

/-- R109: the lifecycle table: reset leads to `BOUND`; a step in which an `INIT` completes after a reset leads to
`INITED`; any other step, whatever request it takes, leaves `LIFE`. -/
def Obligations.LifecycleTransitions : Prop :=
  ∀ s t : State, step s = .next t →
    (∀ w rest, s.agenda = .reset w :: rest → t.life = .bound) ∧
    (s.noResetNext → (s.initCompletes → t.life = .inited) ∧ (¬ s.initCompletes → t.life = s.life))

/-- R21, R24, R41: within a run `ERR` is never cleared, and `TRACE` and the responses only grow. -/
def Obligations.RecordsOnlyGrowWithinARun : Prop :=
  ∀ s t : State, step s = .next t → s.noResetNext →
    (s.err = true → t.err = true) ∧ (∃ es, t.trace = s.trace ++ es) ∧ (∃ rs, t.responses = s.responses ++ rs)

/-- R13, R25, R105: no step changes the configuration, the pattern table among it. -/
def Obligations.ConfigurationNeverChanges : Prop :=
  ∀ s t : State, step s = .next t → t.cfg = s.cfg

/-! ### The invariant -/

/-- Every step keeps the invariant: lines as `TRACE` leaves them, chip-select released between operations, a running
operation in the middle of its own list, status as the responses say. -/
def Obligations.EveryStepKeepsTheInvariant : Prop :=
  ∀ s t : State, Inv s → step s = .next t → Inv t

/-- The state after reset meets the invariant. -/
def Obligations.ResetMeetsTheInvariant : Prop := Inv State.reset

/-- R104: the machine is never stuck: from every state of a proper run a step gives a next state; none faults, none
refuses. -/
def Obligations.EveryStepIsANextState : Prop :=
  ∀ s : State, Inv s → ∃ t, step s = .next t
end

