-- ==== Sys2Proof/Laws/State.lean ====
section
/-! SUPPORT. What each update of the state leaves in each field, so that no proof unfolds a record update. -/

namespace Sys2Proof.Machine

variable (s : State)

@[simp] theorem State.setPin_pin (p : Pin) (l : Level) : (s.setPin p l).pin p = l := by cases p <;> rfl
@[simp] theorem State.setPin_cs (p : Pin) (l : Level) : (s.setPin p l).cs = if p = .cs then l else s.cs := by cases p <;> rfl
@[simp] theorem State.setPin_wr (p : Pin) (l : Level) : (s.setPin p l).wr = if p = .wr then l else s.wr := by cases p <;> rfl
@[simp] theorem State.setPin_data (p : Pin) (l : Level) : (s.setPin p l).data = if p = .data then l else s.data := by cases p <;> rfl
@[simp] theorem State.setPin_sr (p : Pin) (l : Level) : (s.setPin p l).sr = s.sr := by cases p <;> rfl
@[simp] theorem State.setPin_bc (p : Pin) (l : Level) : (s.setPin p l).bc = s.bc := by cases p <;> rfl
@[simp] theorem State.setPin_op (p : Pin) (l : Level) : (s.setPin p l).op = s.op := by cases p <;> rfl
@[simp] theorem State.setPin_a (p : Pin) (l : Level) : (s.setPin p l).a = s.a := by cases p <;> rfl
@[simp] theorem State.setPin_b (p : Pin) (l : Level) : (s.setPin p l).b = s.b := by cases p <;> rfl
@[simp] theorem State.setPin_idx (p : Pin) (l : Level) : (s.setPin p l).idx = s.idx := by cases p <;> rfl
@[simp] theorem State.setPin_busy (p : Pin) (l : Level) : (s.setPin p l).busy = s.busy := by cases p <;> rfl
@[simp] theorem State.setPin_upc (p : Pin) (l : Level) : (s.setPin p l).upc = s.upc := by cases p <;> rfl
@[simp] theorem State.setPin_life (p : Pin) (l : Level) : (s.setPin p l).life = s.life := by cases p <;> rfl
@[simp] theorem State.setPin_err (p : Pin) (l : Level) : (s.setPin p l).err = s.err := by cases p <;> rfl
@[simp] theorem State.setPin_rstat (p : Pin) (l : Level) : (s.setPin p l).rstat = s.rstat := by cases p <;> rfl
@[simp] theorem State.setPin_trace (p : Pin) (l : Level) : (s.setPin p l).trace = s.trace := by cases p <;> rfl
@[simp] theorem State.setPin_responses (p : Pin) (l : Level) : (s.setPin p l).responses = s.responses := by cases p <;> rfl
@[simp] theorem State.setPin_cfg (p : Pin) (l : Level) : (s.setPin p l).cfg = s.cfg := by cases p <;> rfl
@[simp] theorem State.setPin_agenda (p : Pin) (l : Level) : (s.setPin p l).agenda = s.agenda := by cases p <;> rfl
@[simp] theorem State.setPin_resets (p : Pin) (l : Level) : (s.setPin p l).resets = s.resets := by cases p <;> rfl

@[simp] theorem State.emit_trace (e : Event) : (s.emit e).trace = s.trace ++ [e] := by cases e <;> rfl
@[simp] theorem State.emit_set_cs (p : Pin) (l : Level) : (s.emit (.set p l)).cs = if p = .cs then l else s.cs := by cases p <;> rfl
@[simp] theorem State.emit_wait_cs : (s.emit .wait).cs = s.cs := rfl
@[simp] theorem State.emit_set_wr (p : Pin) (l : Level) : (s.emit (.set p l)).wr = if p = .wr then l else s.wr := by cases p <;> rfl
@[simp] theorem State.emit_wait_wr : (s.emit .wait).wr = s.wr := rfl
@[simp] theorem State.emit_set_data (p : Pin) (l : Level) : (s.emit (.set p l)).data = if p = .data then l else s.data := by cases p <;> rfl
@[simp] theorem State.emit_wait_data : (s.emit .wait).data = s.data := rfl
@[simp] theorem State.emit_sr (e : Event) : (s.emit e).sr = s.sr := by cases e <;> first | rfl | (rename_i p _; cases p <;> rfl)
@[simp] theorem State.emit_bc (e : Event) : (s.emit e).bc = s.bc := by cases e <;> first | rfl | (rename_i p _; cases p <;> rfl)
@[simp] theorem State.emit_op (e : Event) : (s.emit e).op = s.op := by cases e <;> first | rfl | (rename_i p _; cases p <;> rfl)
@[simp] theorem State.emit_a (e : Event) : (s.emit e).a = s.a := by cases e <;> first | rfl | (rename_i p _; cases p <;> rfl)
@[simp] theorem State.emit_b (e : Event) : (s.emit e).b = s.b := by cases e <;> first | rfl | (rename_i p _; cases p <;> rfl)
@[simp] theorem State.emit_idx (e : Event) : (s.emit e).idx = s.idx := by cases e <;> first | rfl | (rename_i p _; cases p <;> rfl)
@[simp] theorem State.emit_busy (e : Event) : (s.emit e).busy = s.busy := by cases e <;> first | rfl | (rename_i p _; cases p <;> rfl)
@[simp] theorem State.emit_upc (e : Event) : (s.emit e).upc = s.upc := by cases e <;> first | rfl | (rename_i p _; cases p <;> rfl)
@[simp] theorem State.emit_life (e : Event) : (s.emit e).life = s.life := by cases e <;> first | rfl | (rename_i p _; cases p <;> rfl)
@[simp] theorem State.emit_err (e : Event) : (s.emit e).err = s.err := by cases e <;> first | rfl | (rename_i p _; cases p <;> rfl)
@[simp] theorem State.emit_rstat (e : Event) : (s.emit e).rstat = s.rstat := by cases e <;> first | rfl | (rename_i p _; cases p <;> rfl)
@[simp] theorem State.emit_responses (e : Event) : (s.emit e).responses = s.responses := by cases e <;> first | rfl | (rename_i p _; cases p <;> rfl)
@[simp] theorem State.emit_cfg (e : Event) : (s.emit e).cfg = s.cfg := by cases e <;> first | rfl | (rename_i p _; cases p <;> rfl)
@[simp] theorem State.emit_agenda (e : Event) : (s.emit e).agenda = s.agenda := by cases e <;> first | rfl | (rename_i p _; cases p <;> rfl)
@[simp] theorem State.emit_resets (e : Event) : (s.emit e).resets = s.resets := by cases e <;> first | rfl | (rename_i p _; cases p <;> rfl)

@[simp] theorem State.regWrite_load_sr (v : Byte) (n : BitVec 4) : (s.regWrite (.load v n)).sr = v := rfl
@[simp] theorem State.regWrite_load_bc (v : Byte) (n : BitVec 4) : (s.regWrite (.load v n)).bc = n := rfl
@[simp] theorem State.regWrite_load_idx (v : Byte) (n : BitVec 4) : (s.regWrite (.load v n)).idx = s.idx := rfl
@[simp] theorem State.regWrite_shift_sr : (s.regWrite .shift).sr = s.sr <<< 1 := rfl
@[simp] theorem State.regWrite_shift_bc : (s.regWrite .shift).bc = s.bc - 1 := rfl
@[simp] theorem State.regWrite_shift_idx : (s.regWrite .shift).idx = s.idx := rfl
@[simp] theorem State.regWrite_idxSet_sr (i : Byte) : (s.regWrite (.idxSet i)).sr = s.sr := rfl
@[simp] theorem State.regWrite_idxSet_bc (i : Byte) : (s.regWrite (.idxSet i)).bc = s.bc := rfl
@[simp] theorem State.regWrite_idxSet_idx (i : Byte) : (s.regWrite (.idxSet i)).idx = i := rfl
@[simp] theorem State.regWrite_idxInc_sr : (s.regWrite .idxInc).sr = s.sr := rfl
@[simp] theorem State.regWrite_idxInc_bc : (s.regWrite .idxInc).bc = s.bc := rfl
@[simp] theorem State.regWrite_idxInc_idx : (s.regWrite .idxInc).idx = s.idx + 1 := rfl
@[simp] theorem State.regWrite_cs (u : RegWrite) : (s.regWrite u).cs = s.cs := by cases u <;> rfl
@[simp] theorem State.regWrite_wr (u : RegWrite) : (s.regWrite u).wr = s.wr := by cases u <;> rfl
@[simp] theorem State.regWrite_data (u : RegWrite) : (s.regWrite u).data = s.data := by cases u <;> rfl
@[simp] theorem State.regWrite_op (u : RegWrite) : (s.regWrite u).op = s.op := by cases u <;> rfl
@[simp] theorem State.regWrite_a (u : RegWrite) : (s.regWrite u).a = s.a := by cases u <;> rfl
@[simp] theorem State.regWrite_b (u : RegWrite) : (s.regWrite u).b = s.b := by cases u <;> rfl
@[simp] theorem State.regWrite_busy (u : RegWrite) : (s.regWrite u).busy = s.busy := by cases u <;> rfl
@[simp] theorem State.regWrite_upc (u : RegWrite) : (s.regWrite u).upc = s.upc := by cases u <;> rfl
@[simp] theorem State.regWrite_life (u : RegWrite) : (s.regWrite u).life = s.life := by cases u <;> rfl
@[simp] theorem State.regWrite_err (u : RegWrite) : (s.regWrite u).err = s.err := by cases u <;> rfl
@[simp] theorem State.regWrite_rstat (u : RegWrite) : (s.regWrite u).rstat = s.rstat := by cases u <;> rfl
@[simp] theorem State.regWrite_trace (u : RegWrite) : (s.regWrite u).trace = s.trace := by cases u <;> rfl
@[simp] theorem State.regWrite_responses (u : RegWrite) : (s.regWrite u).responses = s.responses := by cases u <;> rfl
@[simp] theorem State.regWrite_cfg (u : RegWrite) : (s.regWrite u).cfg = s.cfg := by cases u <;> rfl
@[simp] theorem State.regWrite_agenda (u : RegWrite) : (s.regWrite u).agenda = s.agenda := by cases u <;> rfl
@[simp] theorem State.regWrite_resets (u : RegWrite) : (s.regWrite u).resets = s.resets := by cases u <;> rfl

@[simp] theorem State.regWriteOpt_none : s.regWrite? none = s := rfl
@[simp] theorem State.regWriteOpt_some (u : RegWrite) : s.regWrite? (some u) = s.regWrite u := rfl
@[simp] theorem State.regWriteOpt_cs (u : Option RegWrite) : (s.regWrite? u).cs = s.cs := by cases u <;> simp
@[simp] theorem State.regWriteOpt_wr (u : Option RegWrite) : (s.regWrite? u).wr = s.wr := by cases u <;> simp
@[simp] theorem State.regWriteOpt_data (u : Option RegWrite) : (s.regWrite? u).data = s.data := by cases u <;> simp
@[simp] theorem State.regWriteOpt_op (u : Option RegWrite) : (s.regWrite? u).op = s.op := by cases u <;> simp
@[simp] theorem State.regWriteOpt_a (u : Option RegWrite) : (s.regWrite? u).a = s.a := by cases u <;> simp
@[simp] theorem State.regWriteOpt_b (u : Option RegWrite) : (s.regWrite? u).b = s.b := by cases u <;> simp
@[simp] theorem State.regWriteOpt_busy (u : Option RegWrite) : (s.regWrite? u).busy = s.busy := by cases u <;> simp
@[simp] theorem State.regWriteOpt_upc (u : Option RegWrite) : (s.regWrite? u).upc = s.upc := by cases u <;> simp
@[simp] theorem State.regWriteOpt_life (u : Option RegWrite) : (s.regWrite? u).life = s.life := by cases u <;> simp
@[simp] theorem State.regWriteOpt_err (u : Option RegWrite) : (s.regWrite? u).err = s.err := by cases u <;> simp
@[simp] theorem State.regWriteOpt_rstat (u : Option RegWrite) : (s.regWrite? u).rstat = s.rstat := by cases u <;> simp
@[simp] theorem State.regWriteOpt_trace (u : Option RegWrite) : (s.regWrite? u).trace = s.trace := by cases u <;> simp
@[simp] theorem State.regWriteOpt_responses (u : Option RegWrite) : (s.regWrite? u).responses = s.responses := by cases u <;> simp
@[simp] theorem State.regWriteOpt_cfg (u : Option RegWrite) : (s.regWrite? u).cfg = s.cfg := by cases u <;> simp
@[simp] theorem State.regWriteOpt_agenda (u : Option RegWrite) : (s.regWrite? u).agenda = s.agenda := by cases u <;> simp
@[simp] theorem State.regWriteOpt_resets (u : Option RegWrite) : (s.regWrite? u).resets = s.resets := by cases u <;> simp

@[simp] theorem State.perform_upc (m : Micro) : (s.perform m).upc = s.upc + 1 := by simp [State.perform]
@[simp] theorem State.perform_trace (m : Micro) : (s.perform m).trace = s.trace ++ [m.event] := by simp [State.perform]
@[simp] theorem State.perform_op (m : Micro) : (s.perform m).op = s.op := by simp [State.perform]
@[simp] theorem State.perform_a (m : Micro) : (s.perform m).a = s.a := by simp [State.perform]
@[simp] theorem State.perform_b (m : Micro) : (s.perform m).b = s.b := by simp [State.perform]
@[simp] theorem State.perform_busy (m : Micro) : (s.perform m).busy = s.busy := by simp [State.perform]
@[simp] theorem State.perform_life (m : Micro) : (s.perform m).life = s.life := by simp [State.perform]
@[simp] theorem State.perform_err (m : Micro) : (s.perform m).err = s.err := by simp [State.perform]
@[simp] theorem State.perform_rstat (m : Micro) : (s.perform m).rstat = s.rstat := by simp [State.perform]
@[simp] theorem State.perform_responses (m : Micro) : (s.perform m).responses = s.responses := by simp [State.perform]
@[simp] theorem State.perform_cfg (m : Micro) : (s.perform m).cfg = s.cfg := by simp [State.perform]
@[simp] theorem State.perform_agenda (m : Micro) : (s.perform m).agenda = s.agenda := by simp [State.perform]
@[simp] theorem State.perform_resets (m : Micro) : (s.perform m).resets = s.resets := by simp [State.perform]

@[simp] theorem State.respond_rstat (st : RespStatus) : (s.respond st).rstat = st := rfl
@[simp] theorem State.respond_responses (st : RespStatus) : (s.respond st).responses = s.responses ++ [st] := rfl
@[simp] theorem State.respond_cs (st : RespStatus) : (s.respond st).cs = s.cs := rfl
@[simp] theorem State.respond_wr (st : RespStatus) : (s.respond st).wr = s.wr := rfl
@[simp] theorem State.respond_data (st : RespStatus) : (s.respond st).data = s.data := rfl
@[simp] theorem State.respond_sr (st : RespStatus) : (s.respond st).sr = s.sr := rfl
@[simp] theorem State.respond_bc (st : RespStatus) : (s.respond st).bc = s.bc := rfl
@[simp] theorem State.respond_op (st : RespStatus) : (s.respond st).op = s.op := rfl
@[simp] theorem State.respond_a (st : RespStatus) : (s.respond st).a = s.a := rfl
@[simp] theorem State.respond_b (st : RespStatus) : (s.respond st).b = s.b := rfl
@[simp] theorem State.respond_idx (st : RespStatus) : (s.respond st).idx = s.idx := rfl
@[simp] theorem State.respond_busy (st : RespStatus) : (s.respond st).busy = s.busy := rfl
@[simp] theorem State.respond_upc (st : RespStatus) : (s.respond st).upc = s.upc := rfl
@[simp] theorem State.respond_life (st : RespStatus) : (s.respond st).life = s.life := rfl
@[simp] theorem State.respond_err (st : RespStatus) : (s.respond st).err = s.err := rfl
@[simp] theorem State.respond_trace (st : RespStatus) : (s.respond st).trace = s.trace := rfl
@[simp] theorem State.respond_cfg (st : RespStatus) : (s.respond st).cfg = s.cfg := rfl
@[simp] theorem State.respond_agenda (st : RespStatus) : (s.respond st).agenda = s.agenda := rfl
@[simp] theorem State.respond_resets (st : RespStatus) : (s.respond st).resets = s.resets := rfl

@[simp] theorem State.raiseInvalidArgument_err : s.raiseInvalidArgument.err = true := rfl
@[simp] theorem State.raiseInvalidArgument_rstat : s.raiseInvalidArgument.rstat = .invalidArgument := rfl
@[simp] theorem State.raiseInvalidArgument_responses : s.raiseInvalidArgument.responses = s.responses ++ [.invalidArgument] := rfl
@[simp] theorem State.raiseInvalidArgument_cs : (s.raiseInvalidArgument).cs = s.cs := rfl
@[simp] theorem State.raiseInvalidArgument_wr : (s.raiseInvalidArgument).wr = s.wr := rfl
@[simp] theorem State.raiseInvalidArgument_data : (s.raiseInvalidArgument).data = s.data := rfl
@[simp] theorem State.raiseInvalidArgument_sr : (s.raiseInvalidArgument).sr = s.sr := rfl
@[simp] theorem State.raiseInvalidArgument_bc : (s.raiseInvalidArgument).bc = s.bc := rfl
@[simp] theorem State.raiseInvalidArgument_op : (s.raiseInvalidArgument).op = s.op := rfl
@[simp] theorem State.raiseInvalidArgument_a : (s.raiseInvalidArgument).a = s.a := rfl
@[simp] theorem State.raiseInvalidArgument_b : (s.raiseInvalidArgument).b = s.b := rfl
@[simp] theorem State.raiseInvalidArgument_idx : (s.raiseInvalidArgument).idx = s.idx := rfl
@[simp] theorem State.raiseInvalidArgument_busy : (s.raiseInvalidArgument).busy = s.busy := rfl
@[simp] theorem State.raiseInvalidArgument_upc : (s.raiseInvalidArgument).upc = s.upc := rfl
@[simp] theorem State.raiseInvalidArgument_life : (s.raiseInvalidArgument).life = s.life := rfl
@[simp] theorem State.raiseInvalidArgument_trace : (s.raiseInvalidArgument).trace = s.trace := rfl
@[simp] theorem State.raiseInvalidArgument_cfg : (s.raiseInvalidArgument).cfg = s.cfg := rfl
@[simp] theorem State.raiseInvalidArgument_agenda : (s.raiseInvalidArgument).agenda = s.agenda := rfl
@[simp] theorem State.raiseInvalidArgument_resets : (s.raiseInvalidArgument).resets = s.resets := rfl

@[simp] theorem State.latch_op (i : Instr) : (s.latch i).op = i.op := rfl
@[simp] theorem State.latch_a (i : Instr) : (s.latch i).a = i.a := rfl
@[simp] theorem State.latch_b (i : Instr) : (s.latch i).b = i.b := rfl
@[simp] theorem State.latch_upc (i : Instr) : (s.latch i).upc = 0 := rfl
@[simp] theorem State.latch_cs (i : Instr) : (s.latch i).cs = s.cs := rfl
@[simp] theorem State.latch_wr (i : Instr) : (s.latch i).wr = s.wr := rfl
@[simp] theorem State.latch_data (i : Instr) : (s.latch i).data = s.data := rfl
@[simp] theorem State.latch_sr (i : Instr) : (s.latch i).sr = s.sr := rfl
@[simp] theorem State.latch_bc (i : Instr) : (s.latch i).bc = s.bc := rfl
@[simp] theorem State.latch_idx (i : Instr) : (s.latch i).idx = s.idx := rfl
@[simp] theorem State.latch_busy (i : Instr) : (s.latch i).busy = s.busy := rfl
@[simp] theorem State.latch_life (i : Instr) : (s.latch i).life = s.life := rfl
@[simp] theorem State.latch_err (i : Instr) : (s.latch i).err = s.err := rfl
@[simp] theorem State.latch_rstat (i : Instr) : (s.latch i).rstat = s.rstat := rfl
@[simp] theorem State.latch_trace (i : Instr) : (s.latch i).trace = s.trace := rfl
@[simp] theorem State.latch_responses (i : Instr) : (s.latch i).responses = s.responses := rfl
@[simp] theorem State.latch_cfg (i : Instr) : (s.latch i).cfg = s.cfg := rfl
@[simp] theorem State.latch_agenda (i : Instr) : (s.latch i).agenda = s.agenda := rfl
@[simp] theorem State.latch_resets (i : Instr) : (s.latch i).resets = s.resets := rfl

@[simp] theorem State.complete_busy : s.complete.busy = false := rfl
@[simp] theorem State.complete_life : s.complete.life = if s.op = 1 then .inited else s.life := rfl
@[simp] theorem State.complete_rstat : s.complete.rstat = .ok := rfl
@[simp] theorem State.complete_responses : s.complete.responses = s.responses ++ [.ok] := rfl
@[simp] theorem State.complete_cs : (s.complete).cs = s.cs := rfl
@[simp] theorem State.complete_wr : (s.complete).wr = s.wr := rfl
@[simp] theorem State.complete_data : (s.complete).data = s.data := rfl
@[simp] theorem State.complete_sr : (s.complete).sr = s.sr := rfl
@[simp] theorem State.complete_bc : (s.complete).bc = s.bc := rfl
@[simp] theorem State.complete_op : (s.complete).op = s.op := rfl
@[simp] theorem State.complete_a : (s.complete).a = s.a := rfl
@[simp] theorem State.complete_b : (s.complete).b = s.b := rfl
@[simp] theorem State.complete_idx : (s.complete).idx = s.idx := rfl
@[simp] theorem State.complete_upc : (s.complete).upc = s.upc := rfl
@[simp] theorem State.complete_err : (s.complete).err = s.err := rfl
@[simp] theorem State.complete_trace : (s.complete).trace = s.trace := rfl
@[simp] theorem State.complete_cfg : (s.complete).cfg = s.cfg := rfl
@[simp] theorem State.complete_agenda : (s.complete).agenda = s.agenda := rfl
@[simp] theorem State.complete_resets : (s.complete).resets = s.resets := rfl

@[simp] theorem State.takeReset_cs : s.takeReset.cs = s.cfg.csOff := rfl
@[simp] theorem State.takeReset_wr : s.takeReset.wr = s.cfg.wrIdle := rfl
@[simp] theorem State.takeReset_data : s.takeReset.data = s.cfg.dataIdle := rfl
@[simp] theorem State.takeReset_sr : s.takeReset.sr = Config.resetSr s.resets := rfl
@[simp] theorem State.takeReset_bc : s.takeReset.bc = Config.resetBc s.resets := rfl
@[simp] theorem State.takeReset_op : s.takeReset.op = Config.resetOp s.resets := rfl
@[simp] theorem State.takeReset_a : s.takeReset.a = Config.resetA s.resets := rfl
@[simp] theorem State.takeReset_b : s.takeReset.b = Config.resetB s.resets := rfl
@[simp] theorem State.takeReset_idx : s.takeReset.idx = Config.resetIdx s.resets := rfl
@[simp] theorem State.takeReset_busy : s.takeReset.busy = false := rfl
@[simp] theorem State.takeReset_upc : s.takeReset.upc = 0 := rfl
@[simp] theorem State.takeReset_life : s.takeReset.life = .bound := rfl
@[simp] theorem State.takeReset_err : s.takeReset.err = false := rfl
@[simp] theorem State.takeReset_rstat : s.takeReset.rstat = .ok := rfl
@[simp] theorem State.takeReset_trace : s.takeReset.trace = [] := rfl
@[simp] theorem State.takeReset_responses : s.takeReset.responses = [] := rfl
@[simp] theorem State.takeReset_cfg : s.takeReset.cfg = s.cfg := rfl
@[simp] theorem State.takeReset_agenda : s.takeReset.agenda = s.agenda := rfl
@[simp] theorem State.takeReset_resets : s.takeReset.resets = s.resets + 1 := rfl

end Sys2Proof.Machine
end

