-- ==== Sys2Proof/Laws/Ops.lean ====
section
/-! SUPPORT. What performing a list of entries leaves in each field, how replayed levels compose, and what each shared
operation of the engine can answer. -/

namespace Sys2Proof.Machine

variable (s : State) (ms ms' : List Micro)

/-! ### Performing a list -/

@[simp] theorem State.performAll_nil : s.performAll [] = s := rfl
@[simp] theorem State.performAll_cons (m : Micro) : s.performAll (m :: ms) = (s.perform m).performAll ms := rfl
theorem State.performAll_append : s.performAll (ms ++ ms') = (s.performAll ms).performAll ms' := by
  simp [State.performAll, List.foldl_append]

@[simp] theorem State.performAll_op : (s.performAll ms).op = s.op := by
  induction ms generalizing s with | nil => rfl | cons m ms ih => simp [ih]
@[simp] theorem State.performAll_a : (s.performAll ms).a = s.a := by
  induction ms generalizing s with | nil => rfl | cons m ms ih => simp [ih]
@[simp] theorem State.performAll_b : (s.performAll ms).b = s.b := by
  induction ms generalizing s with | nil => rfl | cons m ms ih => simp [ih]
@[simp] theorem State.performAll_busy : (s.performAll ms).busy = s.busy := by
  induction ms generalizing s with | nil => rfl | cons m ms ih => simp [ih]
@[simp] theorem State.performAll_life : (s.performAll ms).life = s.life := by
  induction ms generalizing s with | nil => rfl | cons m ms ih => simp [ih]
@[simp] theorem State.performAll_err : (s.performAll ms).err = s.err := by
  induction ms generalizing s with | nil => rfl | cons m ms ih => simp [ih]
@[simp] theorem State.performAll_rstat : (s.performAll ms).rstat = s.rstat := by
  induction ms generalizing s with | nil => rfl | cons m ms ih => simp [ih]
@[simp] theorem State.performAll_responses : (s.performAll ms).responses = s.responses := by
  induction ms generalizing s with | nil => rfl | cons m ms ih => simp [ih]
@[simp] theorem State.performAll_cfg : (s.performAll ms).cfg = s.cfg := by
  induction ms generalizing s with | nil => rfl | cons m ms ih => simp [ih]
@[simp] theorem State.performAll_agenda : (s.performAll ms).agenda = s.agenda := by
  induction ms generalizing s with | nil => rfl | cons m ms ih => simp [ih]
@[simp] theorem State.performAll_resets : (s.performAll ms).resets = s.resets := by
  induction ms generalizing s with | nil => rfl | cons m ms ih => simp [ih]
@[simp] theorem State.performAll_trace : (s.performAll ms).trace = s.trace ++ ms.map Micro.event := by
  induction ms generalizing s with | nil => simp | cons m ms ih => simp [ih]
@[simp] theorem State.performAll_upc : (s.performAll ms).upc = s.upc + BitVec.ofNat 14 ms.length := by
  induction ms generalizing s with
  | nil => simp
  | cons m ms ih => simp only [performAll_cons, ih, perform_upc, List.length_cons]; apply BitVec.eq_of_toNat_eq; simp; omega

/-! ### Replayed levels -/

variable (p : Pin) (es es' : List Event) (l : Level)

@[simp] theorem levelAfter_nil : levelAfter p [] l = l := rfl
@[simp] theorem levelAfter_wait : levelAfter p (.wait :: es) l = levelAfter p es l := rfl
@[simp] theorem levelAfter_set (q : Pin) (l' : Level) :
    levelAfter p (.set q l' :: es) l = levelAfter p es (if q = p then l' else l) := rfl
theorem levelAfter_append : levelAfter p (es ++ es') l = levelAfter p es' (levelAfter p es l) := by
  induction es generalizing l with
  | nil => rfl
  | cons e es ih => cases e <;> simp [ih]

/-- One engine entry moves a line exactly as its event says. -/
theorem State.perform_pin (m : Micro) :
    (s.perform m).cs = levelAfter .cs [m.event] s.cs ∧ (s.perform m).wr = levelAfter .wr [m.event] s.wr ∧
    (s.perform m).data = levelAfter .data [m.event] s.data := by
  obtain ⟨pre, e, post⟩ := m
  cases e <;> simp [State.perform]

theorem State.performAll_pin (q : Pin) : (s.performAll ms).pin q = levelAfter q (ms.map Micro.event) (s.pin q) := by
  induction ms generalizing s with
  | nil => rfl
  | cons m ms ih =>
    obtain ⟨h1, h2, h3⟩ := s.perform_pin m
    rw [performAll_cons, ih, List.map_cons, ← List.singleton_append, levelAfter_append]
    cases q <;> simp only [State.pin, *]

@[simp] theorem State.performAll_cs : (s.performAll ms).cs = levelAfter .cs (ms.map Micro.event) s.cs :=
  s.performAll_pin ms .cs
@[simp] theorem State.performAll_wr : (s.performAll ms).wr = levelAfter .wr (ms.map Micro.event) s.wr :=
  s.performAll_pin ms .wr
@[simp] theorem State.performAll_data : (s.performAll ms).data = levelAfter .data (ms.map Micro.event) s.data :=
  s.performAll_pin ms .data

/-! ### The shared operations -/

theorem State.reqReady_iff : s.reqReady = true ↔ s.busy = false ∧ s.life ≠ .uninit := by
  simp [State.reqReady]

theorem State.not_reqReady_iff : s.reqReady = false ↔ s.busy = true ∨ s.life = .uninit := by
  cases h : s.busy <;> simp [State.reqReady, h]

/-- What an engine step answers when an entry stands at `UPC`. -/
theorem engineStep_of_entry {m : Micro} (h : s.ev[s.upc.toNat]? = some m) :
    engineStep s = .next (if (s.perform m).upc.toNat = s.ev.length then (s.perform m).complete else s.perform m) := by
  simp only [engineStep, h]

/-- All an engine step can do: perform the entry at `UPC`, completing or not, or stop past the end. -/
theorem engineStep_cases :
    (∃ m, s.ev[s.upc.toNat]? = some m ∧ engineStep s = .next (s.perform m).complete ∧
      (s.perform m).upc.toNat = s.ev.length) ∨
    (∃ m, s.ev[s.upc.toNat]? = some m ∧ engineStep s = .next (s.perform m) ∧
      (s.perform m).upc.toNat ≠ s.ev.length) ∨
    (s.ev[s.upc.toNat]? = none ∧ engineStep s = .fault .engineOffEnd) := by
  rcases h : s.ev[s.upc.toNat]? with _ | m
  · exact .inr (.inr ⟨rfl, by simp only [engineStep, h]⟩)
  · rw [engineStep_of_entry s h]
    split
    · exact .inl ⟨m, rfl, rfl, ‹_›⟩
    · exact .inr (.inl ⟨m, rfl, rfl, ‹_›⟩)

theorem pass_running (hb : s.busy = true) (hl : s.life ≠ .uninit) : pass s = engineStep s := by
  simp [pass, hb, hl]

theorem pass_idle (h : s.busy = false) : pass s = .next s := by simp [pass, h]

theorem pass_uninit (h : s.life = .uninit) : pass s = .next s := by simp [pass, h]

variable (i : Instr) (legal : Bool)

theorem runRequest_held (h : s.reqReady = false) : runRequest i legal ms s = pass s := by simp [runRequest, h]

theorem runRequest_illegal (h : s.reqReady = true) : runRequest i false ms s = .next s.raiseInvalidArgument := by
  simp [runRequest, h]

theorem runRequest_empty (h : s.reqReady = true) :
    runRequest i true [] s = .next ({ s.latch i with idx := 0 }.respond .ok) := by
  simp [runRequest, h, State.accept]

theorem runRequest_legal (h : s.reqReady = true) (hm : ms ≠ []) :
    runRequest i true ms s = .next (({ s.latch i with busy := true }.performAll ms).complete) := by
  simp [runRequest, h, hm, State.accept]

end Sys2Proof.Machine
end

