-- ==== Sys2Proof/Laws/Frames.lean ====
section
/-! SUPPORT. The event lists of the serializer and the framer: their lengths, the levels they leave, the registers the
attached writes leave, and that attaching writes changes no event. -/

namespace Sys2Proof.Machine

/-! ### Attaching writes changes no event -/

@[simp] theorem attach_event (pre post : Option RegWrite) (es : List Event) :
    (attach pre post es).map Micro.event = es := by
  induction es generalizing pre with
  | nil => rfl
  | cons e es ih => cases es with
    | nil => rfl
    | cons e' es => simp [attach, ih]

@[simp] theorem bitMicros_event (pre : Option RegWrite) (b : Level) :
    (bitMicros pre b).map Micro.event = bitEvents b := by simp [bitMicros]

@[simp] theorem bitsMicros_event (pre : Option RegWrite) (bs : List Level) :
    (bitsMicros pre bs).map Micro.event = bs.flatMap bitEvents := by
  induction bs generalizing pre with
  | nil => rfl
  | cons b bs ih => simp [bitsMicros, ih]

@[simp] theorem xmitMicros_event (v : Byte) (n : Nat) : (xmitMicros v n).map Micro.event = xmitEvents v n := by
  simp [xmitMicros, xmitEvents]

@[simp] theorem frameMicros_event (cfg : Cfg) (pre post : Option RegWrite) (g : List Group) :
    (frameMicros cfg pre post g).map Micro.event = frameEvents cfg g := by
  simp [frameMicros, frameEvents, List.map_flatMap]

theorem seqMicros_event (cfg : Cfg) (fs : List (List Group)) :
    (seqMicros cfg fs).map Micro.event = fs.flatMap (frameEvents cfg) := by
  simp only [seqMicros, List.map_flatMap, frameMicros_event]
  rw [← List.zipIdx_map_fst 0 fs, List.flatMap_map]
  simp

/-! ### Lengths -/

@[simp] theorem topBits_length (v : Byte) (n : Nat) : (topBits v n).length = n := by simp [topBits]

theorem flatMap_bitEvents_length (bs : List Level) : (bs.flatMap bitEvents).length = 6 * bs.length := by
  induction bs with
  | nil => rfl
  | cons b bs ih => simp [bitEvents] at ih ⊢; omega

@[simp] theorem xmitEvents_length (v : Byte) (n : Nat) : (xmitEvents v n).length = 6 * n := by
  rw [xmitEvents, flatMap_bitEvents_length, topBits_length]

@[simp] theorem xmitMicros_length (v : Byte) (n : Nat) : (xmitMicros v n).length = 6 * n := by
  rw [← List.length_map (f := Micro.event), xmitMicros_event, xmitEvents_length]

theorem frameEvents_length (cfg : Cfg) (g : List Group) :
    (frameEvents cfg g).length = 2 + 6 * (g.map Group.count).sum := by
  have : (g.flatMap fun x => xmitEvents x.value x.count).length = 6 * (g.map Group.count).sum := by
    induction g with
    | nil => rfl
    | cons x g ih => simp only [List.flatMap_cons, List.length_append, xmitEvents_length, ih, List.map_cons, List.sum_cons]; omega
  simp only [frameEvents, List.length_append, this, List.length_singleton]; omega

@[simp] theorem cmdFrame_length (cfg : Cfg) (c : Byte) : (cmdFrame cfg c).length = 74 := by
  simp [cmdFrame, frameEvents_length, cmdGroups, Config.cmdPrefixWidth, Config.dataWidth]

@[simp] theorem wrFrame_length (cfg : Cfg) (a d : Byte) : (wrFrame cfg a d).length = 104 := by
  simp [wrFrame, frameEvents_length, wrGroups, Config.wrPrefixWidth, Config.addrFieldWidth, Config.dataWidth]

theorem frameMicros_length (cfg : Cfg) (pre post : Option RegWrite) (g : List Group) :
    (frameMicros cfg pre post g).length = 2 + 6 * (g.map Group.count).sum := by
  rw [← List.length_map (f := Micro.event), frameMicros_event, frameEvents_length]

/-! ### Levels -/

theorem levelAfter_bits_cs (bs : List Level) (l : Level) : levelAfter .cs (bs.flatMap bitEvents) l = l := by
  induction bs generalizing l with
  | nil => rfl
  | cons b bs ih => simp [bitEvents, ih]

theorem levelAfter_bits_wr (bs : List Level) (l : Level) :
    levelAfter .wr (bs.flatMap bitEvents) l = if bs = [] then l else true := by
  induction bs generalizing l with
  | nil => rfl
  | cons b bs ih => simp [bitEvents, ih]

theorem levelAfter_bits_data (bs : List Level) (l : Level) :
    levelAfter .data (bs.flatMap bitEvents) l = bs.getLastD l := by
  induction bs generalizing l with
  | nil => rfl
  | cons b bs ih =>
    rw [List.flatMap_cons, levelAfter_append, ih]
    cases bs <;> simp [bitEvents, List.getLast?_cons]

theorem topBits_getLastD (v : Byte) (n : Nat) (h : 1 ≤ n) (l : Level) :
    (topBits v n).getLastD l = v.getLsbD (8 - n) := by
  obtain ⟨m, rfl⟩ : ∃ m, n = m + 1 := ⟨n - 1, by omega⟩
  simp [topBits, List.range_succ]

@[simp] theorem levelAfter_xmit_cs (v : Byte) (n : Nat) (l : Level) : levelAfter .cs (xmitEvents v n) l = l :=
  levelAfter_bits_cs _ _

theorem levelAfter_xmit_wr (v : Byte) (n : Nat) (h : 1 ≤ n) (l : Level) :
    levelAfter .wr (xmitEvents v n) l = true := by
  rw [xmitEvents, levelAfter_bits_wr, if_neg]
  intro h'; have := congrArg List.length h'; simp at this; omega

theorem levelAfter_xmit_data (v : Byte) (n : Nat) (h : 1 ≤ n) (l : Level) :
    levelAfter .data (xmitEvents v n) l = v.getLsbD (8 - n) := by
  rw [xmitEvents, levelAfter_bits_data, topBits_getLastD v n h]

theorem levelAfter_frame_cs (cfg : Cfg) (g : List Group) (l : Level) :
    levelAfter .cs (frameEvents cfg g) l = cfg.csOff := by
  simp [frameEvents, levelAfter_append]

/-- A frame that ends with a group of at least one bit leaves the clock high and `DATA` at that group's last bit. -/
theorem levelAfter_frame_last (cfg : Cfg) (g : List Group) (x : Group) (h : 1 ≤ x.count) (l : Level) :
    levelAfter .wr (frameEvents cfg (g ++ [x])) l = true ∧
    levelAfter .data (frameEvents cfg (g ++ [x])) l = x.value.getLsbD (8 - x.count) := by
  simp [frameEvents, levelAfter_append, levelAfter_xmit_wr _ _ h, levelAfter_xmit_data _ _ h]

@[simp] theorem levelAfter_cmdFrame_cs (cfg : Cfg) (c : Byte) (l : Level) :
    levelAfter .cs (cmdFrame cfg c) l = cfg.csOff := levelAfter_frame_cs ..
@[simp] theorem levelAfter_cmdFrame_wr (cfg : Cfg) (c : Byte) (l : Level) :
    levelAfter .wr (cmdFrame cfg c) l = true :=
  (levelAfter_frame_last cfg [_] ⟨c, 8⟩ (by simp) l).1
@[simp] theorem levelAfter_cmdFrame_data (cfg : Cfg) (c : Byte) (l : Level) :
    levelAfter .data (cmdFrame cfg c) l = c.getLsbD 0 :=
  (levelAfter_frame_last cfg [_] ⟨c, 8⟩ (by simp) l).2
@[simp] theorem levelAfter_wrFrame_cs (cfg : Cfg) (a d : Byte) (l : Level) :
    levelAfter .cs (wrFrame cfg a d) l = cfg.csOff := levelAfter_frame_cs ..
@[simp] theorem levelAfter_wrFrame_wr (cfg : Cfg) (a d : Byte) (l : Level) :
    levelAfter .wr (wrFrame cfg a d) l = true :=
  (levelAfter_frame_last cfg [_, _] ⟨d, 8⟩ (by simp) l).1
@[simp] theorem levelAfter_wrFrame_data (cfg : Cfg) (a d : Byte) (l : Level) :
    levelAfter .data (wrFrame cfg a d) l = d.getLsbD 0 :=
  (levelAfter_frame_last cfg [_, _] ⟨d, 8⟩ (by simp) l).2

/-! ### Registers -/

variable (s : State)

/-- One bit: the write before it, then the shift and the count down. -/
theorem performAll_bitMicros (pre : Option RegWrite) (b : Level) :
    (s.performAll (bitMicros pre b)).sr = (s.regWrite? pre).sr <<< 1 ∧
    (s.performAll (bitMicros pre b)).bc = (s.regWrite? pre).bc - 1 ∧
    (s.performAll (bitMicros pre b)).idx = (s.regWrite? pre).idx := by
  simp [bitMicros, attach, bitEvents, State.perform]

/-- Bits of a group after its first: one shift and one count down each. -/
theorem performAll_bitsMicros_none (bs : List Level) :
    (s.performAll (bitsMicros none bs)).sr = s.sr <<< bs.length ∧
    (s.performAll (bitsMicros none bs)).bc = s.bc - BitVec.ofNat 4 bs.length ∧
    (s.performAll (bitsMicros none bs)).idx = s.idx := by
  induction bs generalizing s with
  | nil => simp [bitsMicros]
  | cons b bs ih =>
    obtain ⟨h1, h2, h3⟩ := performAll_bitMicros s none b
    obtain ⟨h4, h5, h6⟩ := ih (s.performAll (bitMicros none b))
    simp only [bitsMicros, State.performAll_append, h4, h5, h6, h1, h2, h3, State.regWriteOpt_none, List.length_cons]
    refine ⟨?_, ?_, trivial⟩
    · rw [← BitVec.shiftLeft_add, Nat.add_comm]
    · rw [BitVec.ofNat_add, BitVec.sub_sub, BitVec.add_comm (BitVec.ofNat 4 bs.length)]; rfl

/-- The first bits of a group that has just been loaded. -/
theorem performAll_bitsMicros_load (v : Byte) (n : BitVec 4) (bs : List Level) (h : bs ≠ []) :
    (s.performAll (bitsMicros (some (.load v n)) bs)).sr = v <<< bs.length ∧
    (s.performAll (bitsMicros (some (.load v n)) bs)).bc = n - BitVec.ofNat 4 bs.length ∧
    (s.performAll (bitsMicros (some (.load v n)) bs)).idx = s.idx := by
  cases bs with
  | nil => exact absurd rfl h
  | cons b bs =>
    obtain ⟨h1, h2, h3⟩ := performAll_bitMicros s (some (.load v n)) b
    obtain ⟨h4, h5, h6⟩ := performAll_bitsMicros_none (s.performAll (bitMicros (some (.load v n)) b)) bs
    simp only [bitsMicros, State.performAll_append, h4, h5, h6, h1, h2, h3, State.regWriteOpt_some,
      State.regWrite_load_sr, State.regWrite_load_bc, State.regWrite_load_idx, List.length_cons]
    refine ⟨?_, ?_, trivial⟩
    · rw [← BitVec.shiftLeft_add, Nat.add_comm]
    · rw [BitVec.ofNat_add, BitVec.sub_sub, BitVec.add_comm (BitVec.ofNat 4 bs.length)]; rfl

/-- One group of at least one bit (R65). -/
theorem performAll_xmitMicros (v : Byte) (n : Nat) (h : 1 ≤ n) :
    (s.performAll (xmitMicros v n)).sr = v <<< n ∧ (s.performAll (xmitMicros v n)).bc = 0 ∧
    (s.performAll (xmitMicros v n)).idx = s.idx := by
  have hne : topBits v n ≠ [] := by intro h'; have := congrArg List.length h'; simp at this; omega
  obtain ⟨h1, h2, h3⟩ := performAll_bitsMicros_load s v (BitVec.ofNat 4 n) (topBits v n) hne
  simp only [topBits_length] at h1 h2
  exact ⟨h1, by rw [xmitMicros, h2, BitVec.sub_self]; rfl, h3⟩

/-- Groups one after another do not write `IDX`. -/
theorem performAll_groups_idx (g : List Group) (h : ∀ x ∈ g, 1 ≤ x.count) :
    (s.performAll (g.flatMap fun x => xmitMicros x.value x.count)).idx = s.idx := by
  induction g generalizing s with
  | nil => rfl
  | cons x g ih =>
    rw [List.flatMap_cons, State.performAll_append, ih _ fun y hy => h y (by simp [hy]),
      (performAll_xmitMicros s _ _ (h x (by simp))).2.2]

/-- A frame that ends with the group `x`: `SR` and `BC` are what `x` leaves, `IDX` what the attached writes leave. -/
theorem performAll_frameMicros (cfg : Cfg) (pre post : Option RegWrite) (g : List Group) (x : Group)
    (hg : ∀ y ∈ g, 1 ≤ y.count) (hx : 1 ≤ x.count)
    (hpost : ∀ t : State, (t.regWrite? post).sr = t.sr ∧ (t.regWrite? post).bc = t.bc) :
    (s.performAll (frameMicros cfg pre post (g ++ [x]))).sr = x.value <<< x.count ∧
    (s.performAll (frameMicros cfg pre post (g ++ [x]))).bc = 0 ∧
    ((pre = none ∧ post = none) → (s.performAll (frameMicros cfg pre post (g ++ [x]))).idx = s.idx) ∧
    (∀ i, pre = some (.idxSet i) ∧ post = some .idxInc →
      (s.performAll (frameMicros cfg pre post (g ++ [x]))).idx = i + 1) := by
  simp only [frameMicros, List.flatMap_append, List.flatMap_cons, List.flatMap_nil, List.append_nil, ← List.append_assoc,
    State.performAll_append, State.performAll_cons, State.performAll_nil]
  set t := (s.perform ⟨pre, .set .cs cfg.csOn, none⟩).performAll (g.flatMap fun x => xmitMicros x.value x.count) with ht
  have hidx : t.idx = (s.perform ⟨pre, .set .cs cfg.csOn, none⟩).idx := performAll_groups_idx _ _ hg
  obtain ⟨h1, h2, h3⟩ := performAll_xmitMicros t x.value x.count hx
  set u := t.performAll (xmitMicros x.value x.count) with hu
  have hp := hpost (u.emit (.set .cs cfg.csOff))
  refine ⟨by simpa [State.perform, h1] using hp.1, by simpa [State.perform, h2] using hp.2, ?_, ?_⟩
  · rintro ⟨rfl, rfl⟩
    simp [State.perform, h3, hidx]
  · rintro i ⟨rfl, rfl⟩
    simp [State.perform, h3, hidx]

end Sys2Proof.Machine
end

