-- ==== Sys2Proof/Laws/Operations.lean ====
section
/-! SUPPORT. The event list of each operation, its length and its last levels; all requests as one shared operation;
and everything one step can do. -/

namespace Sys2Proof

/-- `CLEAR_MAX` is at most `ADDR_MAX + 1`, so `CLEAR` never passes the last address (R5, R19, D10). -/
theorem Cfg.clearMax_le (cfg : Cfg) : cfg.clearMax.val ≤ 128 := Nat.lt_succ_iff.1 cfg.clearMax.isLt

end Sys2Proof

namespace Sys2Proof.Machine

/-! ### Fields of a request -/

@[simp] theorem decodeFields_fields (i : Instr) : decodeFields i.op i.a i.b = i := by cases i <;> rfl

theorem legalFields_fields (cfg : Cfg) (i : Instr) : legalFields cfg i.op i.a i.b = i.wellFormed cfg := by
  cases i <;> rfl

/-! ### Operand ranges as inequalities (R55) -/

section
variable {cfg : Cfg}

@[simp] theorem wellFormed_reserved0 (a b : Byte) : (Instr.reserved0 a b).wellFormed cfg = false := rfl
@[simp] theorem wellFormed_init (a b : Byte) : (Instr.init a b).wellFormed cfg = true := rfl
@[simp] theorem wellFormed_sendcmd (a b : Byte) : (Instr.sendcmd a b).wellFormed cfg = true := rfl
theorem wellFormed_wrbyte (a b : Byte) : (Instr.wrbyte a b).wellFormed cfg = true ↔ a.toNat ≤ 127 := by
  simp [Instr.wellFormed, Config.addrMax]
theorem wellFormed_clear (a b : Byte) : (Instr.clear a b).wellFormed cfg = true ↔ a.toNat ≤ cfg.clearMax.val := by
  simp [Instr.wellFormed]
theorem wellFormed_setdig (a b : Byte) : (Instr.setdig a b).wellFormed cfg = true ↔ a.toNat ≤ 127 ∧ b.toNat ≤ 16 := by
  simp [Instr.wellFormed, Config.addrMax, Config.patLen]; omega
theorem wellFormed_setdigdot (a b : Byte) :
    (Instr.setdigdot a b).wellFormed cfg = true ↔ a.toNat ≤ 127 ∧ b.toNat ≤ 16 := by
  simp [Instr.wellFormed, Config.addrMax, Config.patLen]; omega
theorem wellFormed_xmit (a b : Byte) : (Instr.xmit a b).wellFormed cfg = true ↔ 1 ≤ b.toNat ∧ b.toNat ≤ 8 := by
  simp [Instr.wellFormed, Config.nMin, Config.nMax]

end

/-! ### The list of each operation -/

variable (cfg : Cfg) (a b : Byte)

theorem opMicros_fields (i : Instr) :
    opMicros cfg i.op i.a i.b =
      if i.wellFormed cfg then
        match i with
        | .reserved0 _ _ => []
        | .init _ _ => initMicros cfg
        | .sendcmd a _ => sendcmdMicros cfg a
        | .wrbyte a b => wrbyteMicros cfg a b
        | .clear a _ => clearMicros cfg a
        | .setdig a b => setdigMicros cfg a b
        | .setdigdot a b => setdigdotMicros cfg a b
        | .xmit a b => xmitMicros a b.toNat
      else [] := by
  cases i <;> simp only [opMicros, legalFields_fields, decodeFields_fields]

theorem patRead_isSome (h : b.toNat ≤ 16) : ∃ d, patRead cfg b = some d := by
  by_cases h0 : b = 0
  · exact ⟨Config.patZero, by simp [patRead, h0]⟩
  · have : b.toNat ≠ 0 := fun h' => h0 (BitVec.eq_of_toNat_eq (by simpa using h'))
    refine ⟨cfg.patRest[b.toNat - 1], ?_⟩
    simp only [patRead, h0, if_false]
    exact Vector.getElem?_eq_getElem (by omega)

@[simp] theorem sendcmdMicros_event : (sendcmdMicros cfg a).map Micro.event = cmdFrame cfg a := frameMicros_event ..
@[simp] theorem wrbyteMicros_event : (wrbyteMicros cfg a b).map Micro.event = wrFrame cfg a b := frameMicros_event ..
@[simp] theorem initMicros_event : (initMicros cfg).map Micro.event =
    cmdFrame cfg cfg.cmdRc256k ++ cmdFrame cfg cfg.cmdBiasThird4Com ++ cmdFrame cfg cfg.cmdSysEn ++
      cmdFrame cfg cfg.cmdLcdOn := by
  simp [initMicros, seqMicros_event, initCodes, cmdFrame]
@[simp] theorem clearMicros_event : (clearMicros cfg a).map Micro.event =
    (List.range a.toNat).flatMap fun i => wrFrame cfg (BitVec.ofNat 8 i) 0 := by
  simp only [clearMicros, seqMicros_event, List.flatMap_map]; rfl

theorem flatMap_wrFrame_length (n : Nat) :
    ((List.range n).flatMap fun i => wrFrame cfg (BitVec.ofNat 8 i) 0).length = 104 * n := by
  induction n with
  | zero => rfl
  | succ n ih => simp only [List.range_succ, List.flatMap_append, List.length_append, ih]; simp; omega

theorem initMicros_length : (initMicros cfg).length = 296 := by
  rw [← List.length_map (f := Micro.event), initMicros_event]; simp
theorem clearMicros_length : (clearMicros cfg a).length = 104 * a.toNat := by
  rw [← List.length_map (f := Micro.event), clearMicros_event, flatMap_wrFrame_length]

/-- The length of every operation's list (R19, R70, R77). -/
theorem opMicros_length (i : Instr) (h : i.wellFormed cfg = true) :
    (opMicros cfg i.op i.a i.b).length =
      match i with
      | .reserved0 _ _ => 0
      | .init _ _ => 296
      | .sendcmd _ _ => 74
      | .wrbyte _ _ | .setdig _ _ | .setdigdot _ _ => 104
      | .clear a _ => 104 * a.toNat
      | .xmit _ b => 6 * b.toNat := by
  rw [opMicros_fields, if_pos h]
  cases i with
  | reserved0 a b => rfl
  | init a b => exact initMicros_length cfg
  | sendcmd a b => rw [← List.length_map (f := Micro.event)]; simp
  | wrbyte a b => rw [← List.length_map (f := Micro.event)]; simp
  | clear a b => exact clearMicros_length cfg a
  | setdig a b =>
    obtain ⟨d, hd⟩ := patRead_isSome cfg b ((wellFormed_setdig a b).1 h).2
    rw [← List.length_map (f := Micro.event)]
    simp only [setdigMicros, digitData, hd, frameMicros_event]
    exact wrFrame_length cfg a d
  | setdigdot a b =>
    obtain ⟨d, hd⟩ := patRead_isSome cfg b ((wellFormed_setdigdot a b).1 h).2
    rw [← List.length_map (f := Micro.event)]
    simp only [setdigdotMicros, digitDotData, hd, Option.map_some, frameMicros_event]
    exact wrFrame_length cfg a _
  | xmit a b => exact xmitMicros_length a b.toNat

/-- No list is longer than `UPC` can index (R19). -/
theorem opMicros_length_le (op : BitVec 3) : (opMicros cfg op a b).length ≤ 13312 := by
  by_cases hl : legalFields cfg op a b = true
  · have hf : ∃ i : Instr, i.op = op ∧ i.a = a ∧ i.b = b := by
      refine ⟨decodeFields op a b, ?_⟩
      revert op; intro op _
      obtain ⟨f⟩ := op
      match f with
      | 0 | 1 | 2 | 3 | 4 | 5 | 6 | 7 => exact ⟨rfl, rfl, rfl⟩
    obtain ⟨i, rfl, rfl, rfl⟩ := hf
    rw [legalFields_fields] at hl
    rw [opMicros_length cfg i hl]
    cases i with
    | clear a b => have := (wellFormed_clear a b).1 hl; have := cfg.clearMax_le; dsimp only; omega
    | xmit a b => have := (wellFormed_xmit a b).1 hl; dsimp only; omega
    | _ => simp
  · simp [opMicros, hl]

theorem runRequest_ite (i : Instr) (legal : Bool) (ms : List Micro) (s : State) :
    runRequest i legal ms s = runRequest i legal (if legal then ms else []) s := by
  cases legal <;> simp [runRequest]

/-- Every request as the one shared operation (R28, R89). -/
theorem exec_eq_runRequest (i : Instr) (s : State) :
    exec i s = runRequest i (i.wellFormed s.cfg) (opMicros s.cfg i.op i.a i.b) s := by
  rw [opMicros_fields, ← runRequest_ite]
  cases i <;> rfl

/-- All a step can do. -/
theorem step_cases (s : State) :
    (step s = pass s ∧ (s.agenda = [] ∨
      ∃ w rest, (s.agenda = .request w :: rest ∨ s.agenda = .issue w :: rest) ∧ s.reqReady = false)) ∨
    (∃ rest, s.agenda = .pass :: rest ∧ step s = pass { s with agenda := rest }) ∨
    (∃ w rest, s.agenda = .reset w :: rest ∧ step s = .next { s with agenda := rest }.takeReset) ∨
    (∃ w rest, s.agenda = .issue w :: rest ∧ s.reqReady = true ∧
      step s = .next ({ s with agenda := rest }.issue w)) ∨
    (∃ w rest, s.agenda = .request w :: rest ∧ s.reqReady = true ∧
      step s = exec (decode w) { s with agenda := rest }) := by
  rcases h : s.agenda with _ | ⟨⟨w⟩ | ⟨w⟩ | _ | ⟨w⟩, rest⟩
  · exact .inl ⟨by simp only [step, h], .inl rfl⟩
  · cases hr : s.reqReady
    · refine .inl ⟨?_, .inr ⟨w, rest, .inl rfl, rfl⟩⟩
      simp only [step, h, hr, exec_eq_runRequest, runRequest_held s _ _ _ hr]; rfl
    · exact .inr (.inr (.inr (.inr ⟨w, rest, rfl, rfl, by simp [step, h, hr]⟩)))
  · cases hr : s.reqReady
    · exact .inl ⟨by simp [step, h, hr], .inr ⟨w, rest, .inr rfl, rfl⟩⟩
    · exact .inr (.inr (.inr (.inl ⟨w, rest, rfl, rfl, by simp [step, h, hr]⟩)))
  · exact .inr (.inl ⟨rest, rfl, by simp only [step, h]⟩)
  · exact .inr (.inr (.inl ⟨w, rest, rfl, by simp only [step, h]⟩))

end Sys2Proof.Machine
end

