-- ==== Sys2Proof/Laws/PerInstr.lean ====
section
/-! SUPPORT. Per-instruction lemmas: family `EncodedFields`, what the encoded word of each request holds (R53, R59). -/

namespace Sys2Proof.Laws.EncodedFields

/-- The encoded word holds the operation code in bits 18:16, `A` in bits 15:8 and `B` in bits 7:0 (R53). -/
def Statement (i : Instr) : Prop :=
  opField (encode i) = i.op ∧ aField (encode i) = i.a ∧ bField (encode i) = i.b

/-- The three fields of R53 do not overlap in `(op << 16) | (A << 8) | B`. -/
theorem fields_of_encode (i : Instr) : Statement i := by
  refine ⟨?_, ?_, ?_⟩ <;>
  · apply BitVec.eq_of_getLsbD_eq
    intro j hj
    interval_cases j <;> simp [opField, aField, bField, encode]

theorem reserved0 (a b : Byte) : Statement (.reserved0 a b) := fields_of_encode _
theorem init (a b : Byte) : Statement (.init a b) := fields_of_encode _
theorem sendcmd (a b : Byte) : Statement (.sendcmd a b) := fields_of_encode _
theorem wrbyte (a b : Byte) : Statement (.wrbyte a b) := fields_of_encode _
theorem clear (a b : Byte) : Statement (.clear a b) := fields_of_encode _
theorem setdig (a b : Byte) : Statement (.setdig a b) := fields_of_encode _
theorem setdigdot (a b : Byte) : Statement (.setdigdot a b) := fields_of_encode _
theorem xmit (a b : Byte) : Statement (.xmit a b) := fields_of_encode _

end Sys2Proof.Laws.EncodedFields
end

