-- ==== Sys2Proof/Tests/Slice0.lean ====
section
/-! SUPPORT. Tests: the well-formedness checks, decoding of words written out from R53, single steps with the expected
results of 95_test_vectors.md, and a witness for the hypotheses of every statement. -/

namespace Sys2Proof.Tests

open Sys2Proof.Machine

/-- The state after reset with one request to come. -/
def asked (w : ReqWord) : State := { State.reset with agenda := [.request w] }

/-- A field of the state a step leads to. -/
def seen {α : Type} (o : Host.Outcome State Fault Refusal) (f : State → α) : Option α :=
  match o with
  | .next t => some (f t)
  | .fault _ => none
  | .refused _ => none

/-- The wire bits of a request issued after reset, as the selected chip samples them from the idle levels. -/
def wire (w : ReqWord) : Option (List Level) :=
  seen (step (asked w)) fun t => sampledCs t.cfg true true true t.trace

/-- Bits written as the vectors write them. -/
def bits (n : Nat) (v : Nat) : List Level := (List.range n).map fun k => v.testBit (n - 1 - k)

/-- `WRBYTE 0, 0xF5` accepted after reset, `k` engine steps later (V71). -/
def midWrite (k : Nat) : State := (State.reset.accepted (.wrbyte 0 0xF5)).performAll ((wrbyteMicros Cfg.default 0 0xF5).take k)

/-- Power applied, reset not taken (R106). -/
def unpowered : State := { State.reset with life := .uninit }

/-! ### Well-formedness: each check refuses an ill-formed request (R55, R56) -/

theorem test_wf_reserved0 : (Instr.reserved0 0 0).wellFormed Cfg.default = false := by decide
theorem test_wf_wrbyte : (Instr.wrbyte 127 0xFF).wellFormed Cfg.default = true ∧ (Instr.wrbyte 128 1).wellFormed Cfg.default = false := by decide
theorem test_wf_clear : (Instr.clear 128 0).wellFormed Cfg.default = true ∧ (Instr.clear 129 0).wellFormed Cfg.default = false := by decide
/-- A build with `CLEAR_MAX` = 3: a place count of 3 is legal, 4 is not (R5, R55, R62). -/
def shortClear : Cfg := { Cfg.default with clearMax := 3 }
theorem test_wf_clear_max : (Instr.clear 3 0).wellFormed shortClear = true ∧ (Instr.clear 4 0).wellFormed shortClear = false := by
  decide
theorem test_wf_setdig : (Instr.setdig 127 16).wellFormed Cfg.default = true ∧ (Instr.setdig 2 17).wellFormed Cfg.default = false ∧
    (Instr.setdig 128 0).wellFormed Cfg.default = false := by decide
theorem test_wf_setdigdot : (Instr.setdigdot 127 16).wellFormed Cfg.default = true ∧ (Instr.setdigdot 2 17).wellFormed Cfg.default = false ∧
    (Instr.setdigdot 128 16).wellFormed Cfg.default = false := by decide
theorem test_wf_xmit : (Instr.xmit 0xFF 8).wellFormed Cfg.default = true ∧ (Instr.xmit 0xFF 1).wellFormed Cfg.default = true ∧
    (Instr.xmit 0xFF 0).wellFormed Cfg.default = false ∧ (Instr.xmit 0xFF 9).wellFormed Cfg.default = false := by decide

/-! ### Decoding: words written out bit by bit from `oooaaaaaaaabbbbbbbb` (R53, R54) -/

theorem test_decode_reserved0 : decode 0b000_11111111_11111111 = .reserved0 0xFF 0xFF := by decide
theorem test_decode_init : decode 0b001_10101011_11001101 = .init 0xAB 0xCD := by decide
theorem test_decode_sendcmd : decode 0b010_00000010_01110111 = .sendcmd 0x02 0x77 := by decide
theorem test_decode_wrbyte : decode 0b011_00000101_11111101 = .wrbyte 5 0xFD := by decide
theorem test_decode_clear : decode 0b100_00000011_00000000 = .clear 3 0 := by decide
theorem test_decode_setdig : decode 0b101_00000010_00010000 = .setdig 2 16 := by decide
theorem test_decode_setdigdot : decode 0b110_00000001_00000000 = .setdigdot 1 0 := by decide
theorem test_decode_xmit : decode 0b111_10100000_00000011 = .xmit 0xA0 3 := by decide
/-- V60, V61, V63 to V66. -/
theorem test_decode_legal : decodeLegal Cfg.default 0x00000 = .error .invalidArgument ∧ decodeLegal Cfg.default 0x0FFFF = .error .invalidArgument ∧
    decodeLegal Cfg.default 0x7FFFF = .error .invalidArgument ∧ decodeLegal Cfg.default 0x7FF08 = .ok (.xmit 0xFF 8) ∧
    decodeLegal Cfg.default 0x48000 = .ok (.clear 128 0) ∧ decodeLegal Cfg.default 0x48100 = .error .invalidArgument := by
  refine ⟨rfl, rfl, rfl, rfl, rfl, rfl⟩
/-- A number of 2^19 or more is no request word (R53). -/
theorem test_decode_table : decodeTableWord 24 0x305FD = some (.wrbyte 5 0xFD) ∧ decodeTableWord 24 0x80000 = none := by
  decide

/-! ### One step each (95_test_vectors.md; program and vector numbers in the names) -/

theorem test_V3_xmit : seen (step (asked 0x7A003)) (fun t => (sampled true true t.trace, t.sr, t.bc, t.wr, t.data, t.cs))
    = some (bits 3 0b101, 0x00, 0, true, true, true) := by decide
theorem test_V5_xmit : seen (step (asked 0x7C305)) (fun t => (sampled true true t.trace, t.sr, t.trace.length, t.data))
    = some (bits 5 0b11000, 0x60, 30, false) := by decide
theorem test_V9a_xmit : seen (step (asked 0x7FF00)) (fun t => (t.trace, t.err, t.statusByte, t.responses))
    = some ([], true, 0x1A, [.invalidArgument]) := by decide
theorem test_V11_sendcmd : wire 0x20200 = some (bits 12 0b1000_00000010) := by decide
set_option maxRecDepth 4000 in
theorem test_V16_sendcmd : seen (step (asked 0x20277)) (fun t => (t.op, t.a, t.b, t.data, t.life, t.trace.length))
    = some (2, 0x02, 0x77, false, .bound, 74) := by decide
set_option maxRecDepth 4000 in
theorem test_V22_wrbyte : wire 0x305FD = some (bits 17 0b101_001010_11111101) := by decide
set_option maxRecDepth 4000 in
theorem test_V28_wrbyte : wire 0x37F01 = some (bits 17 0b101_111110_00000001) := by decide
theorem test_V30_clear : seen (step (asked 0x40000)) (fun t => (t.trace, t.idx, t.busy, t.responses))
    = some ([], 0, false, [.ok]) := by decide
theorem test_V33a_clear : seen (step (asked 0x48100)) (fun t => (t.trace, t.err, t.op)) = some ([], true, 0) := by decide
set_option maxRecDepth 4000 in
theorem test_clear_max : seen (step { asked 0x40400 with cfg := shortClear }) (fun t => (t.trace, t.err, t.op)) = some ([], true, 0) ∧
    seen (step { asked 0x40300 with cfg := shortClear }) (fun t => (t.idx, t.err)) = some (3, false) := by decide
set_option maxRecDepth 4000 in
theorem test_V34_init : wire 0x10000
    = some (bits 48 0b1000_00110000_1000_01010010_1000_00000010_1000_00000110) := by decide
set_option maxRecDepth 4000 in
theorem test_program1_init : seen (step (asked 0x10000)) (fun t => (t.life, t.idx, t.sr, t.data, t.statusByte, t.trace.length))
    = some (.inited, 4, 0, false, 0x04, 296) := by decide
set_option maxRecDepth 4000 in
theorem test_V32_clear : seen (step (asked 0x40300)) (fun t => (sampledCs t.cfg true true true t.trace, t.idx, t.data))
    = some (bits 51 0b101_000000_00000000_101_000010_00000000_101_000100_00000000, 3, false) := by decide
set_option maxRecDepth 4000 in
theorem test_V40_setdig : wire 0x50000 = some (bits 17 0b101_000000_11110101) := by decide
set_option maxRecDepth 4000 in
theorem test_V42_setdig : wire 0x50210 = some (bits 17 0b101_000100_00000000) := by decide
set_option maxRecDepth 4000 in
theorem test_V41_setdigdot : wire 0x60100 = some (bits 17 0b101_000010_11111101) := by decide
set_option maxRecDepth 4000 in
theorem test_V43_setdigdot : wire 0x60310 = some (bits 17 0b101_000110_00001000) := by decide
theorem test_V50_setdig : seen (step (asked 0x50211)) (fun t => (t.trace, t.err, t.cs, t.statusByte))
    = some ([], true, true, 0x1A) := by decide
theorem test_V60_reserved0 : seen (step (asked 0x00000)) (fun t => (t.trace, t.err, t.op, t.reqReady))
    = some ([], true, 0, true) := by decide
theorem test_V70_reset : State.reset.statusByte = 0x02 ∧ State.reset.trace = [] ∧ State.reset.cs = true := by decide
/-- V71 before the reset step. -/
theorem test_V71_mid : (midWrite 10).cs = false ∧ (midWrite 10).wr = false ∧ (midWrite 10).data = false ∧
    (midWrite 10).busy = true ∧ (midWrite 10).upc = 10 ∧ (midWrite 10).sr = 0x40 ∧ (midWrite 10).bc = 2 := by decide
/-- V71 at the reset step: released, idle, no response, `TRACE` empty. -/
theorem test_V71_reset : seen (step { midWrite 10 with agenda := [.reset none] })
      (fun t => (t.cs, t.wr, t.data, t.busy, t.trace))
    = some (true, true, true, false, []) := by decide
theorem test_asm : (AsmLine.wrbyte 200 0).assemble = some (.request 0x3C800) ∧ (AsmLine.wrbyte 256 0).assemble = none ∧
    AsmLine.lcdOff.assemble = some (.request 0x20400) ∧ (AsmLine.blank 127).assemble = some (.request 0x57F10) := by decide

/-- R60: each pseudo-instruction's one request, its words by hand. -/
theorem test_pseudo : AsmLine.lcdOn.assemble = some (.request 0x20600) ∧ AsmLine.sysEn.assemble = some (.request 0x20200) ∧
    AsmLine.sysDis.assemble = some (.request 0x20000) ∧ (AsmLine.clrByte 7).assemble = some (.request 0x30700) := by decide

/-! ### Witnesses: for each statement with hypotheses, a state and operands that meet them -/

theorem witness_StepRunsDecodedRequest :
    (asked 0x305FD).agenda = [.request 0x305FD] ∧ (asked 0x305FD).reqReady = true := by decide
theorem witness_PlacedWordRunsNext :
    decodeTableWord 24 0x70000 = some (.xmit 0 0) ∧ State.reset.reqReady = true := by decide
theorem witness_StepHoldsRequestWhileNotReady :
    (∃ s : State, s.agenda = [.request 0x10000] ∧ s.reqReady = false ∧ s.life = .uninit) ∧
    (∃ s : State, s.agenda = [.issue 0x10000] ∧ s.reqReady = false ∧ s.life ≠ .uninit) :=
  ⟨⟨{ unpowered with agenda := [.request 0x10000] }, by decide⟩, ⟨{ midWrite 1 with agenda := [.issue 0x10000] }, by decide⟩⟩
theorem witness_IssueStepAcceptsOrFaults :
    (∃ s : State, s.agenda = [.issue 0x30000] ∧ s.reqReady = true) ∧ (decode 0x30000).wellFormed Cfg.default = true ∧
    (decode 0x400FF).wellFormed Cfg.default = true ∧ opField 0x400FF = 4 ∧ aField 0x400FF = 0 ∧ (decode 0x38000).wellFormed Cfg.default = false :=
  ⟨⟨{ State.reset with agenda := [.issue 0x30000] }, by decide⟩, by decide, by decide, by decide, by decide, by decide⟩
set_option maxRecDepth 4000 in
theorem witness_EngineStepPerformsOneEvent :
    (midWrite 0).busy = true ∧ (opEvents (midWrite 0).cfg (midWrite 0).op (midWrite 0).a (midWrite 0).b)[0]? = some (.set .cs false) ∧
    (midWrite 103).busy = true ∧ (midWrite 103).upc.toNat = 103 ∧
    (opEvents (midWrite 103).cfg (midWrite 103).op (midWrite 103).a (midWrite 103).b)[103]? = some (.set .cs true) := by decide
theorem witness_BigStepIsIssueThenEngineSteps :
    State.reset.reqReady = true ∧ (decode 0x48000).wellFormed Cfg.default = true ∧ (decode 0x40000).wellFormed Cfg.default = true := by decide
set_option maxRecDepth 4000 in
theorem witness_MidOperationShowsFirstEvents :
    State.reset.reqReady = true ∧ (decode 0x305FD).wellFormed Cfg.default = true ∧
    (opEvents Cfg.default 3 5 0xFD).length = 104 := by decide
/-- The state in which `XMIT 0xA0, 3` is about to drive its first bit. -/
def aboutToDrive : State := (State.reset.accepted (.xmit 0xA0 3)).performAll ((xmitMicros 0xA0 3).take 2)
theorem witness_DataDriveIsShiftRegisterMsb :
    Inv aboutToDrive ∧ aboutToDrive.busy = true ∧
    (opEvents aboutToDrive.cfg aboutToDrive.op aboutToDrive.a aboutToDrive.b)[aboutToDrive.upc.toNat]? = some (.set .data true) :=
  ⟨{ alive := by decide, csReplay := by decide, wrReplay := by decide, dataReplay := by decide,
     idleReleased := by decide, running := fun _ => ⟨by decide, State.reset.accepted (.xmit 0xA0 3), by decide, by decide, rfl⟩,
     lastStatus := by decide, statusKinds := by decide, errRecords := by decide }, by decide, by decide⟩
theorem witness_XmitRegisterEffects : 1 ≤ (1 : Nat) ∧ (1 : Nat) ≤ 8 ∧ 1 ≤ (8 : Nat) ∧ (8 : Nat) ≤ 8 := by decide
theorem witness_SerializerReconstructsTopBits :
    sampled false true (xmitEvents 0xC3 5) = bits 5 0b11000 ∧ sampled true true (xmitEvents 0x01 8) = bits 8 1 := by decide
theorem witness_EventCountsAndLeastDurations :
    waitCount (xmitEvents 0 1) = 3 ∧ waitCount (xmitEvents 0 8) = 24 ∧ (128 : Byte).toNat ≤ Cfg.default.clearMax.val := by decide
theorem witness_SelectedChipSeesFrameBits :
    (∀ x ∈ ([⟨0xFF, 1⟩, ⟨0x01, 8⟩] : List Group), 1 ≤ x.count ∧ x.count ≤ 8) ∧
    sampledCs Cfg.default true false true (frameEvents Cfg.default [⟨0xFF, 1⟩, ⟨0x01, 8⟩]) = bits 9 0b1_00000001 ∧
    ([⟨0xFF, 1⟩, ⟨0x01, 8⟩] : List Group).getLast? = some ⟨0x01, 8⟩ := by decide
theorem witness_OperationsKeepFraming :
    (Instr.xmit 0 1).wellFormed Cfg.default ∧ (Instr.init 0 0).wellFormed Cfg.default ∧ (Instr.clear 128 0).wellFormed Cfg.default ∧ (Instr.sendcmd 0 0).wellFormed Cfg.default ∧
    (Instr.wrbyte 127 0).wellFormed Cfg.default ∧ (Instr.setdig 127 16).wellFormed Cfg.default ∧ (Instr.setdigdot 127 16).wellFormed Cfg.default := by decide
/-- For the operations' statements: a ready state, and the operand values at which their clauses meet. -/
theorem witness_operations :
    State.reset.reqReady = true ∧
    (1 : Byte).toNat = 1 ∧ (8 : Byte).toNat ≤ 8 ∧ (9 : Byte).toNat = 9 ∧ (0 : Byte).toNat = 0 ∧
    (127 : Byte).toNat ≤ 127 ∧ 128 ≤ (128 : Byte).toNat ∧ (128 : Byte).toNat ≤ 128 ∧ 129 ≤ (129 : Byte).toNat ∧
    (16 : Byte).toNat ≤ 16 ∧ 17 ≤ (17 : Byte).toNat ∧
    (128 : Byte).toNat ≤ State.reset.cfg.clearMax.val ∧ State.reset.cfg.clearMax.val < (129 : Byte).toNat ∧
    (4 : Byte).toNat > shortClear.clearMax.val ∧ (3 : Byte).toNat ≤ shortClear.clearMax.val := by decide
theorem witness_PatternTableIsDefinedTo16 :
    (16 : Byte).toNat = 15 + 1 ∧ patRead Cfg.default 16 = some 0x00 ∧ patRead Cfg.default 17 = none := by decide
set_option maxRecDepth 4000 in
theorem witness_FrameCounterCountsFrames :
    State.reset.reqReady = true ∧ (127 : Nat) < (128 : Byte).toNat ∧ (128 : Byte).toNat ≤ 128 ∧
    ((State.reset.accepted (.clear 2 0)).performAll ((clearMicros Cfg.default 2).take (104 * 1 + 1))).idx = 1 := by decide
theorem witness_DigitOperationsAreByteWrites :
    State.reset.reqReady = true ∧ (127 : Byte).toNat ≤ 127 ∧ (16 : Byte).toNat ≤ 16 ∧ (0 : Byte).toNat ≤ 16 := by decide
theorem witness_StatusAndResidueChangeNoOperation :
    ∃ s s' : State, s.reqReady = true ∧ s'.reqReady = true ∧ s.cfg = s'.cfg ∧ s.life ≠ s'.life ∧ s.err ≠ s'.err :=
  ⟨State.reset, { State.reset with life := .inited, err := true, sr := 0xFF }, by decide, by decide, rfl, by decide, by decide⟩
theorem witness_ExecHoldsWhileNotReady : (midWrite 5).reqReady = false ∧ unpowered.reqReady = false := by decide
theorem witness_ResetFromAnyState :
    ∃ s : State, s.agenda = [.reset (some 0x10000)] ∧ s.busy = true :=
  ⟨{ midWrite 10 with agenda := [.reset (some 0x10000)] }, by decide⟩
theorem witness_OnlyResetBeforeFirstReset : unpowered.life = .uninit ∧ unpowered.noResetNext :=
  ⟨rfl, by intro w rest h; cases h⟩
set_option maxRecDepth 4000 in
theorem witness_LifecycleTransitions :
    (∃ t, step (asked 0x10000) = .next t ∧ (asked 0x10000).life = .bound ∧ t.life = .inited) ∧
    (∃ t, step { State.reset with agenda := [.reset none], life := .inited } = .next t ∧ t.life = .bound) :=
  ⟨⟨_, rfl, rfl, rfl⟩, ⟨_, rfl, rfl⟩⟩
/-- An `INIT` whose last event is next. -/
def lastOfInit : State := (State.reset.accepted (.init 0 0)).performAll ((initMicros Cfg.default).take 295)
set_option maxRecDepth 8000 in
theorem witness_LifecycleTransitions_clauses :
    lastOfInit.life = .bound ∧ lastOfInit.busy = true ∧ lastOfInit.op = 1 ∧
    lastOfInit.upc.toNat + 1 = (opEvents lastOfInit.cfg lastOfInit.op lastOfInit.a lastOfInit.b).length ∧
    (asked 0x20200).reqReady = true ∧ (asked 0x20200).busy = false ∧ opField 0x20200 = 2 ∧ opField 0x10000 = 1 := by decide
theorem witness_RecordsOnlyGrowWithinARun :
    (∃ t, step (asked 0x00000) = .next t) ∧ (asked 0x00000).noResetNext :=
  ⟨⟨_, rfl⟩, by intro w rest h; cases h⟩
theorem witness_ConfigurationNeverChanges : ∃ t, step (asked 0x7A003) = .next t := ⟨_, rfl⟩
theorem witness_EveryStepKeepsTheInvariant : Inv (asked 0x00000) ∧ ∃ t, step (asked 0x00000) = .next t :=
  ⟨{ alive := by decide, csReplay := rfl, wrReplay := rfl, dataReplay := rfl, idleReleased := fun _ => rfl,
     running := fun h => absurd h (by decide), lastStatus := rfl, statusKinds := by decide, errRecords := by decide }, ⟨_, rfl⟩⟩
theorem witness_EveryStepIsANextState : Inv aboutToDrive := witness_DataDriveIsShiftRegisterMsb.1

end Sys2Proof.Tests
end

/-! The engine step of R27 on a running operation: the events at `UPC` as entries of the sequencer's list, and the one
event a step performs. -/

namespace Sys2Proof.Machine

/-- The events of the latched operation are those of the entries the engine works through. -/
theorem opEvents_eq_map_ev (s : State) : opEvents s.cfg s.op s.a s.b = s.ev.map Micro.event := rfl

/-- An event of the latched operation at `UPC` is that of the entry there. -/
theorem exists_entry_of_event {s : State} {e : Event} (h : (opEvents s.cfg s.op s.a s.b)[s.upc.toNat]? = some e) :
    ∃ m, s.ev[s.upc.toNat]? = some m ∧ m.event = e := by
  rwa [opEvents_eq_map_ev, List.getElem?_map, Option.map_eq_some_iff] at h

/-- `UPC` does not wrap at an entry: no list is as long as its 14 bits can count (R19). -/
theorem perform_upc_toNat_of_entry {s : State} {m : Micro} (h : s.ev[s.upc.toNat]? = some m) :
    (s.perform m).upc.toNat = s.upc.toNat + 1 := by
  obtain ⟨hlt, -⟩ := List.getElem?_eq_some_iff.1 h
  have hlen : s.ev.length ≤ 13312 := opMicros_length_le s.cfg s.a s.b s.op
  have hfits : s.upc.toNat + (1 : BitVec 14).toNat < 2 ^ 14 := by change s.upc.toNat + 1 < 2 ^ 14; omega
  rw [State.perform_upc]
  exact BitVec.toNat_add_of_lt hfits

/-- Settles O10: the entry at `UPC` is performed, and `UPC`, which cannot wrap, tells the completing step apart. -/
theorem engineStepPerformsOneEvent : Obligations.EngineStepPerformsOneEvent := by
  intro s e hbusy he
  obtain ⟨m, hm, rfl⟩ := exists_entry_of_event he
  obtain ⟨hcs, hwr, hdata⟩ := s.perform_pin m
  rw [opEvents_eq_map_ev, List.length_map, ← perform_upc_toNat_of_entry hm, engineStep_of_entry s hm]
  by_cases hlast : (s.perform m).upc.toNat = s.ev.length
  · rw [if_pos hlast]
    refine ⟨(s.perform m).complete, rfl, by simp, by simp, hcs, hwr, hdata, ?_⟩
    rw [if_pos hlast]
    simp
  · rw [if_neg hlast]
    refine ⟨s.perform m, rfl, by simp, by simp, hcs, hwr, hdata, ?_⟩
    rw [if_neg hlast]
    simp [hbusy]

end Sys2Proof.Machine

/-! The decoded fields, the request on a ready port, and the engine steps between `Issue` and completion (R26, R27,
R28). -/

namespace Sys2Proof.Machine

/-! ### The fields of a decoded word -/

theorem fields_decodeFields (op : BitVec 3) (a b : Byte) :
    (decodeFields op a b).op = op ∧ (decodeFields op a b).a = a ∧ (decodeFields op a b).b = b := by
  obtain ⟨f⟩ := op
  match f with
  | 0 | 1 | 2 | 3 | 4 | 5 | 6 | 7 => exact ⟨rfl, rfl, rfl⟩

/-- The list of the fields of a word is that of its decoded request. -/
theorem opEvents_decode (cfg : Cfg) (w : ReqWord) :
    opEvents cfg (opField w) (aField w) (bField w) =
      (opMicros cfg (decode w).op (decode w).a (decode w).b).map Micro.event := by
  obtain ⟨hop, ha, hb⟩ := fields_decodeFields (opField w) (aField w) (bField w)
  rw [opEvents, decode, hop, ha, hb]

/-! ### The accepted state -/

section
variable (s : State) (i : Instr)

@[simp] theorem State.accepted_cs : (s.accepted i).cs = s.cs := rfl
@[simp] theorem State.accepted_wr : (s.accepted i).wr = s.wr := rfl
@[simp] theorem State.accepted_data : (s.accepted i).data = s.data := rfl
@[simp] theorem State.accepted_idx : (s.accepted i).idx = s.idx := rfl
@[simp] theorem State.accepted_busy : (s.accepted i).busy = true := rfl
@[simp] theorem State.accepted_upc : (s.accepted i).upc = 0 := rfl
@[simp] theorem State.accepted_life : (s.accepted i).life = s.life := rfl
@[simp] theorem State.accepted_err : (s.accepted i).err = s.err := rfl
@[simp] theorem State.accepted_rstat : (s.accepted i).rstat = s.rstat := rfl
@[simp] theorem State.accepted_trace : (s.accepted i).trace = s.trace := rfl
@[simp] theorem State.accepted_responses : (s.accepted i).responses = s.responses := rfl
@[simp] theorem State.accepted_cfg : (s.accepted i).cfg = s.cfg := rfl
@[simp] theorem State.accepted_ev : (s.accepted i).ev = opMicros s.cfg i.op i.a i.b := rfl

theorem State.accept_of_ne_nil {ms : List Micro} (h : ms ≠ []) : s.accept i ms = s.accepted i := by
  simp only [State.accept, List.isEmpty_iff, h, if_false]
  rfl

/-- `Issue(w)` by the operand ranges of the decoded request (R26, R55). -/
theorem State.issue_eq (w : ReqWord) :
    s.issue w = if (decode w).wellFormed s.cfg then
      s.accept (decode w) (opMicros s.cfg (decode w).op (decode w).a (decode w).b) else s.raiseInvalidArgument := by
  simp only [State.issue, legalFields_fields]

/-- A request out of range is refused whole (R89, R93). -/
theorem exec_illFormed {s : State} {i : Instr} (hr : s.reqReady = true) (hw : i.wellFormed s.cfg = false) :
    exec i s = .next s.raiseInvalidArgument := by
  rw [exec_eq_runRequest, hw, runRequest_illegal s _ i hr]

/-- A legal request without events is answered at acceptance (R26). -/
theorem exec_noEvents {s : State} {i : Instr} (hr : s.reqReady = true) (hw : i.wellFormed s.cfg = true)
    (hm : opMicros s.cfg i.op i.a i.b = []) : exec i s = .next ({ s.latch i with idx := 0 }.respond .ok) := by
  rw [exec_eq_runRequest, hw, hm, runRequest_empty s i hr]

/-- A legal request with events performs them all from the accepted state and completes (R28). -/
theorem exec_events {s : State} {i : Instr} (hr : s.reqReady = true) (hw : i.wellFormed s.cfg = true)
    (hm : opMicros s.cfg i.op i.a i.b ≠ []) :
    exec i s = .next (((s.accepted i).performAll (opMicros s.cfg i.op i.a i.b)).complete) := by
  rw [exec_eq_runRequest, hw, runRequest_legal s _ i hr hm]
  rfl

end

/-- What a request on a ready port does to the records, and that the port is ready again (R26, R28, R89). -/
theorem exec_records (i : Instr) {s : State} (hr : s.reqReady = true) :
    ∃ t, exec i s = .next t ∧ t.trace = s.trace ++ opEvents s.cfg i.op i.a i.b ∧
      t.responses = s.responses ++ [if i.wellFormed s.cfg then .ok else .invalidArgument] ∧ t.reqReady = true := by
  obtain ⟨hbusy, hlife⟩ := s.reqReady_iff.1 hr
  cases hw : i.wellFormed s.cfg
  case false =>
    have hnone : opMicros s.cfg i.op i.a i.b = [] := by simp [opMicros_fields, hw]
    exact ⟨_, exec_illFormed hr hw, by simp [opEvents, hnone], by simp, by simp [State.reqReady, hbusy, hlife]⟩
  case true =>
    by_cases hm : opMicros s.cfg i.op i.a i.b = []
    · exact ⟨_, exec_noEvents hr hw hm, by simp [opEvents, hm], by simp, by simp [State.reqReady, hbusy, hlife]⟩
    · refine ⟨_, exec_events hr hw hm, by simp [opEvents], by simp, ?_⟩
      rw [State.reqReady_iff]
      refine ⟨rfl, ?_⟩
      rw [State.complete_life]
      split
      · exact Life.noConfusion
      · simpa using hlife

/-- Settles O37: the records say all but the frame of a refused request, which is that of the raised exception. -/
theorem everyRequestGetsOneResponse : Obligations.EveryRequestGetsOneResponse := by
  intro i s hr
  obtain ⟨t, hexec, -, hresp, hready⟩ := exec_records i hr
  refine ⟨t, hexec, hresp, hready, fun hw => ?_⟩
  obtain rfl : s.raiseInvalidArgument = t := by simpa [exec_illFormed hr hw] using hexec
  exact ⟨rfl, rfl, rfl, rfl⟩

/-- Settles O36: the events and the response depend on the request and the configuration alone. -/
theorem statusAndResidueChangeNoOperation : Obligations.StatusAndResidueChangeNoOperation := by
  intro i s s' hr hr' hcfg
  obtain ⟨t, hexec, htrace, hresp, -⟩ := exec_records i hr
  obtain ⟨t', hexec', htrace', hresp', -⟩ := exec_records i hr'
  rw [← hcfg] at htrace' hresp'
  exact ⟨t, t', _, _, hexec, hexec', htrace, htrace', hresp, hresp'⟩

/-! ### The engine steps of one operation -/

@[simp] theorem State.perform_ev (s : State) (m : Micro) : (s.perform m).ev = s.ev := by simp [State.ev]

@[simp] theorem State.performAll_ev (s : State) (ms : List Micro) : (s.performAll ms).ev = s.ev := by simp [State.ev]

theorem engineRun_one (s : State) : engineRun 1 s = engineStep s := by
  simp only [engineRun]
  cases engineStep s <;> rfl

theorem engineRun_add {m n : Nat} {s t : State} (h : engineRun m s = .next t) :
    engineRun (m + n) s = engineRun n t := by
  induction m generalizing s with
  | zero => cases h; rw [Nat.zero_add]
  | succ m ih =>
    rw [Nat.succ_add]
    simp only [engineRun] at h ⊢
    cases hs : engineStep s with
    | next u => rw [hs] at h; exact ih h
    | fault r => rw [hs] at h; cases h
    | refused r => rw [hs] at h; cases h

/-- An entry that is not the last is performed and nothing else. -/
theorem engineStep_not_last {s : State} {m : Micro} (hm : s.ev[s.upc.toNat]? = some m)
    (h : s.upc.toNat + 1 < s.ev.length) : engineStep s = .next (s.perform m) := by
  rw [engineStep_of_entry s hm, if_neg]
  rw [perform_upc_toNat_of_entry hm]
  omega

/-- The last entry is performed and completes the operation. -/
theorem engineStep_last {s : State} {m : Micro} (hm : s.ev[s.upc.toNat]? = some m)
    (h : s.upc.toNat + 1 = s.ev.length) : engineStep s = .next (s.perform m).complete := by
  rw [engineStep_of_entry s hm, if_pos]
  rw [perform_upc_toNat_of_entry hm, h]

/-- Engine steps that do not reach the end perform the entries from `UPC` on. -/
theorem engineRun_before_end {k : Nat} {s : State} (h : s.upc.toNat + k < s.ev.length) :
    engineRun k s = .next (s.performAll ((s.ev.drop s.upc.toNat).take k)) := by
  induction k generalizing s with
  | zero => rfl
  | succ k ih =>
    have hlt : s.upc.toNat < s.ev.length := by omega
    have hm : s.ev[s.upc.toNat]? = some s.ev[s.upc.toNat] := List.getElem?_eq_getElem hlt
    have hupc := perform_upc_toNat_of_entry hm
    have hrest := ih (s := s.perform s.ev[s.upc.toNat]) (by rw [hupc, State.perform_ev]; omega)
    rw [hupc, State.perform_ev] at hrest
    simp only [engineRun]
    rw [engineStep_not_last hm (by omega), List.drop_eq_getElem_cons hlt]
    exact hrest

/-- `UPC` counts the entries performed: no list is as long as its 14 bits can count (R19). -/
theorem performAll_take_upc {s : State} {k : Nat} (h0 : s.upc = 0) (hk : k ≤ s.ev.length) :
    (s.performAll (s.ev.take k)).upc.toNat = k := by
  have hlen : s.ev.length ≤ 13312 := opMicros_length_le s.cfg s.a s.b s.op
  rw [State.performAll_upc, h0, List.length_take_of_le hk, BitVec.ofNat_eq_ofNat, BitVec.zero_add, BitVec.toNat_ofNat]
  exact Nat.mod_eq_of_lt (by omega)

/-- From `UPC = 0`, engine steps that do not reach the end perform the first entries. -/
theorem engineRun_from_start {k : Nat} {s : State} (h0 : s.upc = 0) (hk : k < s.ev.length) :
    engineRun k s = .next (s.performAll (s.ev.take k)) := by
  have hzero : s.upc.toNat = 0 := by rw [h0]; rfl
  have hrun := engineRun_before_end (k := k) (s := s) (by omega)
  rwa [hzero, List.drop_zero] at hrun

/-- From `UPC = 0`, exactly `len(EV)` engine steps perform the whole list and complete (R27). -/
theorem engineRun_to_end {s : State} (h0 : s.upc = 0) (hne : s.ev ≠ []) :
    engineRun s.ev.length s = .next (s.performAll s.ev).complete := by
  obtain ⟨n, hn⟩ : ∃ n, s.ev.length = n + 1 := Nat.exists_eq_succ_of_ne_zero (by simpa using hne)
  have hlt : n < s.ev.length := by omega
  have hupc := performAll_take_upc h0 hlt.le
  have hentry : (s.performAll (s.ev.take n)).ev[(s.performAll (s.ev.take n)).upc.toNat]? = some s.ev[n] := by
    rw [hupc, State.performAll_ev, List.getElem?_eq_getElem hlt]
  have hall : (s.performAll (s.ev.take n)).perform s.ev[n] = s.performAll s.ev :=
    calc (s.performAll (s.ev.take n)).perform s.ev[n]
        = s.performAll (s.ev.take n ++ [s.ev[n]]) := by rw [State.performAll_append]; rfl
      _ = s.performAll s.ev := by rw [List.take_append_getElem hlt, ← hn, List.take_length]
  rw [hn, engineRun_add (engineRun_from_start h0 hlt), engineRun_one,
    engineStep_last hentry (by rw [hupc, State.performAll_ev, hn]), hall]

/-- Settles O11: `Issue` leaves the accepted state, from which the engine runs the list to its end; a list without
events is answered by `Issue` itself. -/
theorem bigStepIsIssueThenEngineSteps : Obligations.BigStepIsIssueThenEngineSteps := by
  intro s w hr hw
  rw [State.issue_eq, if_pos hw, opEvents_decode, List.length_map]
  by_cases hm : opMicros s.cfg (decode w).op (decode w).a (decode w).b = []
  · rw [exec_noEvents hr hw hm, hm]
    rfl
  · rw [exec_events hr hw hm, State.accept_of_ne_nil s _ hm]
    exact engineRun_to_end (s.accepted_upc _) hm

/-- Settles O12: mid-operation the state is what the first `k` entries make of the accepted state. -/
theorem midOperationShowsFirstEvents : Obligations.MidOperationShowsFirstEvents := by
  intro s w k hr hw hk
  rw [opEvents_decode, List.length_map] at hk
  have hm : opMicros s.cfg (decode w).op (decode w).a (decode w).b ≠ [] := List.ne_nil_of_length_pos (by omega)
  have hupc := performAll_take_upc (s.accepted_upc (decode w)) hk.le
  have hrun := engineRun_from_start (s.accepted_upc (decode w)) hk
  rw [← State.accept_of_ne_nil s _ hm] at hrun
  rw [State.issue_eq, if_pos hw, opEvents_decode, ← List.map_take]
  refine ⟨_, hrun, ?_⟩
  rw [State.accept_of_ne_nil s _ hm]
  refine ⟨by simp, hupc, ?_⟩
  simp

end Sys2Proof.Machine

/-! Within a run the configuration stays and the records only grow (R13, R21, R24, R41). -/

namespace Sys2Proof.Machine

/-- What every step but a reset does to the configuration and the records: `t` has the configuration of `s` and
extends its records. -/
structure Extends (s t : State) : Prop where
  /-- The configuration, the pattern table among it, is the same. -/
  cfg : t.cfg = s.cfg
  /-- `ERR` is sticky. -/
  err : s.err = true → t.err = true
  /-- `TRACE` grows at its end. -/
  trace : ∃ es, t.trace = s.trace ++ es
  /-- The responses grow at their end. -/
  responses : ∃ rs, t.responses = s.responses ++ rs

theorem Extends.refl (s : State) : Extends s s := ⟨rfl, id, ⟨[], by simp⟩, ⟨[], by simp⟩⟩

theorem Extends.trans {s t u : State} (h : Extends s t) (h' : Extends t u) : Extends s u := by
  obtain ⟨hcfg, herr, ⟨es, htrace⟩, rs, hresp⟩ := h
  obtain ⟨hcfg', herr', ⟨es', htrace'⟩, rs', hresp'⟩ := h'
  exact ⟨hcfg'.trans hcfg, herr' ∘ herr, ⟨es ++ es', by rw [htrace', htrace, List.append_assoc]⟩,
    rs ++ rs', by rw [hresp', hresp, List.append_assoc]⟩

theorem extends_performAll (s : State) (ms : List Micro) : Extends s (s.performAll ms) :=
  ⟨by simp, by simp, ⟨_, s.performAll_trace ms⟩, [], by simp⟩

theorem extends_perform (s : State) (m : Micro) : Extends s (s.perform m) := extends_performAll s [m]

theorem extends_complete (s : State) : Extends s s.complete := ⟨rfl, id, ⟨[], by simp⟩, _, s.complete_responses⟩

theorem extends_raiseInvalidArgument (s : State) : Extends s s.raiseInvalidArgument :=
  ⟨rfl, fun _ => rfl, ⟨[], by simp⟩, _, s.raiseInvalidArgument_responses⟩

theorem extends_accept (s : State) (i : Instr) (ms : List Micro) : Extends s (s.accept i ms) := by
  rw [State.accept]
  split
  · exact ⟨rfl, id, ⟨[], by simp⟩, [.ok], by simp⟩
  · exact ⟨rfl, id, ⟨[], by simp⟩, [], by simp⟩

theorem extends_issue (s : State) (w : ReqWord) : Extends s (s.issue w) := by
  rw [State.issue]
  split
  · exact extends_accept ..
  · exact extends_raiseInvalidArgument s

theorem extends_engineStep {s t : State} (h : engineStep s = .next t) : Extends s t := by
  obtain ⟨m, -, hnext, -⟩ | ⟨m, -, hnext, -⟩ | ⟨-, hfault⟩ := engineStep_cases s
  · cases hnext.symm.trans h
    exact (extends_perform s m).trans (extends_complete _)
  · cases hnext.symm.trans h
    exact extends_perform s m
  · cases hfault.symm.trans h

theorem extends_pass {s t : State} (h : pass s = .next t) : Extends s t := by
  rw [pass] at h
  split at h
  · exact extends_engineStep h
  · cases h
    exact Extends.refl s

theorem extends_exec {i : Instr} {s t : State} (h : exec i s = .next t) : Extends s t := by
  rw [exec_eq_runRequest, runRequest] at h
  split at h
  case isFalse => exact extends_pass h
  case isTrue =>
    split at h
    case isFalse =>
      cases h
      exact extends_raiseInvalidArgument s
    case isTrue =>
      cases h
      split
      · exact extends_accept ..
      · exact (extends_accept ..).trans ((extends_performAll ..).trans (extends_complete _))

/-- Taking the host's action off the agenda touches none of it. -/
theorem extends_agenda (s : State) (rest : List HostAction) : Extends s { s with agenda := rest } :=
  ⟨rfl, id, ⟨[], by simp⟩, [], by simp⟩

/-- Every step extends its state, unless it is a reset. -/
theorem step_extends_or_resets {s t : State} (h : step s = .next t) :
    Extends s t ∨ ∃ w rest, s.agenda = .reset w :: rest ∧ t = { s with agenda := rest }.takeReset := by
  obtain ⟨hs, -⟩ | ⟨rest, -, hs⟩ | ⟨w, rest, hag, hs⟩ | ⟨w, rest, -, -, hs⟩ | ⟨w, rest, -, -, hs⟩ := step_cases s
  · exact .inl (extends_pass (hs ▸ h))
  · exact .inl ((extends_agenda s rest).trans (extends_pass (hs ▸ h)))
  · cases hs.symm.trans h
    exact .inr ⟨w, rest, hag, rfl⟩
  · cases hs.symm.trans h
    exact .inl ((extends_agenda s rest).trans (extends_issue _ w))
  · exact .inl ((extends_agenda s rest).trans (extends_exec (hs ▸ h)))

/-- Settles O44: a step that is no reset extends its state. -/
theorem recordsOnlyGrowWithinARun : Obligations.RecordsOnlyGrowWithinARun := by
  intro s t h hno
  obtain ⟨-, herr, htrace, hresp⟩ | ⟨w, rest, hag, -⟩ := step_extends_or_resets h
  · exact ⟨herr, htrace, hresp⟩
  · exact absurd hag (hno w rest)

/-- Settles O45: a step that is no reset extends its state, and a reset copies the configuration. -/
theorem configurationNeverChanges : Obligations.ConfigurationNeverChanges := by
  intro s t h
  obtain hext | ⟨w, rest, -, rfl⟩ := step_extends_or_resets h
  · exact hext.cfg
  · rfl

end Sys2Proof.Machine

/-! The shapes of the operations' lists: one group, one frame, or frames counted in `IDX` (R19). -/

namespace Sys2Proof.Machine

/-- Only an empty `CLEAR` is legal and has no events (R81). -/
theorem opMicros_ne_nil {cfg : Cfg} {i : Instr} (hw : i.wellFormed cfg = true) (hclear : i.op = 4 → i.a.toNat ≠ 0) :
    opMicros cfg i.op i.a i.b ≠ [] := by
  intro hnil
  have hlen := opMicros_length cfg i hw
  rw [hnil, List.length_nil] at hlen
  cases i with
  | reserved0 a b => cases hw
  | clear a b =>
    have ha : a.toNat ≠ 0 := hclear rfl
    dsimp only at hlen
    omega
  | xmit a b =>
    obtain ⟨hb, -⟩ := (wellFormed_xmit a b).1 hw
    dsimp only at hlen
    omega
  | init | sendcmd | wrbyte | setdig | setdigdot => cases hlen

/-- No group of a command frame is longer than `SR`. -/
theorem cmdGroups_count_le (cfg : Cfg) (c : Byte) : ∀ x ∈ cmdGroups cfg c, x.count ≤ 8 := by
  simp [cmdGroups, Config.cmdPrefixWidth]

/-- No group of a write frame is longer than `SR`. -/
theorem wrGroups_count_le (cfg : Cfg) (a d : Byte) : ∀ x ∈ wrGroups cfg a d, x.count ≤ 8 := by
  simp [wrGroups, Config.wrPrefixWidth, Config.addrFieldWidth]

/-- What the list of an operation can be: nothing, one frame, one group, or, for `INIT` and `CLEAR` only, counted
frames; no group is longer than `SR`. -/
theorem opMicros_shape (cfg : Cfg) (i : Instr) :
    opMicros cfg i.op i.a i.b = [] ∨
    (∃ g : List Group, (∀ x ∈ g, x.count ≤ 8) ∧ opMicros cfg i.op i.a i.b = frameMicros cfg none none g) ∨
    (∃ v n, n ≤ 8 ∧ opMicros cfg i.op i.a i.b = xmitMicros v n) ∨
    ((i.op = 1 ∨ i.op = 4) ∧ ∃ fs : List (List Group), (∀ g ∈ fs, ∀ x ∈ g, x.count ≤ 8) ∧
      opMicros cfg i.op i.a i.b = seqMicros cfg fs) := by
  rw [opMicros_fields]
  cases hw : i.wellFormed cfg
  case false => exact .inl rfl
  case true =>
    cases i with
    | reserved0 a b => cases hw
    | init a b =>
      refine .inr (.inr (.inr ⟨.inl rfl, _, fun g hg => ?_, rfl⟩))
      obtain ⟨c, -, rfl⟩ := List.mem_map.1 hg
      exact cmdGroups_count_le cfg c
    | sendcmd a b => exact .inr (.inl ⟨_, cmdGroups_count_le cfg a, rfl⟩)
    | wrbyte a b => exact .inr (.inl ⟨_, wrGroups_count_le cfg a b, rfl⟩)
    | clear a b =>
      refine .inr (.inr (.inr ⟨.inr rfl, _, fun g hg => ?_, rfl⟩))
      obtain ⟨k, -, rfl⟩ := List.mem_map.1 hg
      exact wrGroups_count_le cfg _ _
    | setdig a b =>
      obtain ⟨d, hd⟩ := patRead_isSome cfg b ((wellFormed_setdig a b).1 hw).2
      exact .inr (.inl ⟨_, wrGroups_count_le cfg a d, by simp only [setdigMicros, digitData, hd, if_true]⟩)
    | setdigdot a b =>
      obtain ⟨d, hd⟩ := patRead_isSome cfg b ((wellFormed_setdigdot a b).1 hw).2
      exact .inr (.inl ⟨_, wrGroups_count_le cfg a (d ||| Config.dotMask), by
        simp only [setdigdotMicros, digitDotData, hd, Option.map_some, if_true]⟩)
    | xmit a b => exact .inr (.inr (.inl ⟨a, b.toNat, ((wellFormed_xmit a b).1 hw).2, rfl⟩))

end Sys2Proof.Machine

/-! `IDX` counts the frames of `INIT` and `CLEAR` (R18). -/

namespace Sys2Proof.Machine

/-! ### Entries that do not write `IDX` -/

/-- The entry's attached writes leave `IDX` alone. -/
def Micro.KeepsIdx (m : Micro) : Prop := ∀ s : State, (s.perform m).idx = s.idx

theorem performAll_idx_of_keepsIdx {ms : List Micro} (h : ∀ m ∈ ms, m.KeepsIdx) (s : State) :
    (s.performAll ms).idx = s.idx := by
  induction ms generalizing s with
  | nil => rfl
  | cons m ms ih =>
    obtain ⟨hm, hms⟩ := List.forall_mem_cons.1 h
    rw [State.performAll_cons, ih hms, hm]

theorem keepsIdx_bare (e : Event) : Micro.KeepsIdx ⟨none, e, none⟩ := fun s => by simp [State.perform]

theorem keepsIdx_load (v : Byte) (n : BitVec 4) (e : Event) : Micro.KeepsIdx ⟨some (.load v n), e, none⟩ :=
  fun s => by simp [State.perform]

theorem keepsIdx_shift (e : Event) : Micro.KeepsIdx ⟨none, e, some .shift⟩ := fun s => by simp [State.perform]

/-- The bits of a group keep `IDX` when the write before the first of them does. -/
theorem keepsIdx_bitsMicros {pre : Option RegWrite} (hpre : ∀ e, Micro.KeepsIdx ⟨pre, e, none⟩) (bs : List Level) :
    ∀ m ∈ bitsMicros pre bs, m.KeepsIdx := by
  induction bs generalizing pre with
  | nil => exact fun m hm => absurd hm List.not_mem_nil
  | cons b bs ih =>
    have hbit : ∀ m ∈ bitMicros pre b, m.KeepsIdx := by
      simp [bitMicros, attach, bitEvents, hpre, keepsIdx_bare, keepsIdx_shift]
    intro m hm
    rcases List.mem_append.1 hm with hm | hm
    · exact hbit m hm
    · exact ih keepsIdx_bare m hm

theorem keepsIdx_xmitMicros (v : Byte) (n : Nat) : ∀ m ∈ xmitMicros v n, m.KeepsIdx :=
  keepsIdx_bitsMicros (keepsIdx_load v _) _

theorem keepsIdx_groups (g : List Group) : ∀ m ∈ g.flatMap fun x => xmitMicros x.value x.count, m.KeepsIdx := by
  intro m hm
  obtain ⟨x, -, hx⟩ := List.mem_flatMap.1 hm
  exact keepsIdx_xmitMicros _ _ m hx

theorem keepsIdx_frameMicros (cfg : Cfg) (g : List Group) : ∀ m ∈ frameMicros cfg none none g, m.KeepsIdx := by
  intro m hm
  rw [frameMicros, List.mem_append, List.mem_append, List.mem_singleton, List.mem_singleton] at hm
  obtain (rfl | hm) | rfl := hm
  · exact keepsIdx_bare _
  · exact keepsIdx_groups g m hm
  · exact keepsIdx_bare _

/-! ### Counted frames -/

/-- A counted frame has the number `i` in `IDX` from its first event until its last. -/
theorem idx_during_frameMicros (cfg : Cfg) (i : Byte) (post : Option RegWrite) (g : List Group) (s : State) {j : Nat}
    (h1 : 1 ≤ j) (hj : j < (frameMicros cfg (some (.idxSet i)) post g).length) :
    (s.performAll ((frameMicros cfg (some (.idxSet i)) post g).take j)).idx = i := by
  obtain ⟨k, rfl⟩ := Nat.exists_eq_add_of_le' h1
  simp only [frameMicros, List.cons_append, List.length_cons, List.length_append,
    List.length_nil] at hj
  rw [frameMicros, List.singleton_append, List.cons_append, List.take_succ_cons, List.take_append_of_le_length (by omega),
    State.performAll_cons, performAll_idx_of_keepsIdx fun m hm => keepsIdx_groups g m (List.mem_of_mem_take hm)]
  simp [State.perform]

/-- A counted frame leaves the number of the next one in `IDX`. -/
theorem idx_after_frameMicros (cfg : Cfg) (i : Byte) (g : List Group) (s : State) :
    (s.performAll (frameMicros cfg (some (.idxSet i)) (some .idxInc) g)).idx = i + 1 := by
  rw [frameMicros, State.performAll_append, State.performAll_append]
  simp [State.perform, performAll_idx_of_keepsIdx (keepsIdx_groups g)]

theorem seqMicros_append (cfg : Cfg) (fs gs : List (List Group)) :
    seqMicros cfg (fs ++ gs) = seqMicros cfg fs ++
      (gs.zipIdx fs.length).flatMap fun (g, i) =>
        frameMicros cfg (some (.idxSet (BitVec.ofNat 8 i))) (some .idxInc) g := by
  rw [seqMicros, List.zipIdx_append, List.flatMap_append, Nat.zero_add]
  rfl

/-- After a sequence of frames `IDX` is their number (R18). -/
theorem idx_after_seqMicros (cfg : Cfg) {fs : List (List Group)} (hne : fs ≠ []) (s : State) :
    (s.performAll (seqMicros cfg fs)).idx = BitVec.ofNat 8 fs.length := by
  obtain ⟨gs, g, rfl⟩ := List.eq_nil_or_concat fs |>.resolve_left hne
  rw [List.concat_eq_append, seqMicros_append, State.performAll_append]
  simp [idx_after_frameMicros, BitVec.ofNat_add]

theorem seqMicros_length {cfg : Cfg} {fs : List (List Group)} {L : Nat}
    (hL : ∀ g ∈ fs, (frameEvents cfg g).length = L) : (seqMicros cfg fs).length = L * fs.length := by
  rw [← List.length_map (f := Micro.event), seqMicros_event, List.length_flatMap, List.map_congr_left hL,
    List.map_const', List.sum_replicate, smul_eq_mul, Nat.mul_comm]

/-- During frame `i` of a sequence of frames with `L` events each `IDX = i` (R18). -/
theorem idx_during_seqMicros {cfg : Cfg} {fs : List (List Group)} {L : Nat}
    (hL : ∀ g ∈ fs, (frameEvents cfg g).length = L) (s : State) {i j : Nat} (hi : i < fs.length) (h1 : 1 ≤ j)
    (hj : j < L) :
    (s.performAll ((seqMicros cfg fs).take (L * i + j))).idx = BitVec.ofNat 8 i := by
  have hbefore : (fs.take i).length = i := List.length_take_of_le hi.le
  have hlen : (seqMicros cfg (fs.take i)).length = L * i := by
    rw [seqMicros_length fun g hg => hL g (List.mem_of_mem_take hg), hbefore]
  have hframe : j < (frameMicros cfg (some (.idxSet (BitVec.ofNat 8 i))) (some .idxInc) fs[i]).length := by
    rwa [← List.length_map (f := Micro.event), frameMicros_event, hL _ (List.getElem_mem hi)]
  have hsplit : seqMicros cfg fs = seqMicros cfg (fs.take i) ++
      (frameMicros cfg (some (.idxSet (BitVec.ofNat 8 i))) (some .idxInc) fs[i] ++
        ((fs.drop (i + 1)).zipIdx (i + 1)).flatMap fun (g, k) =>
          frameMicros cfg (some (.idxSet (BitVec.ofNat 8 k))) (some .idxInc) g) := by
    conv_lhs => rw [← List.take_append_drop i fs, seqMicros_append, hbefore, List.drop_eq_getElem_cons hi]
    rfl
  rw [hsplit, ← hlen, List.take_length_add_append, State.performAll_append, List.take_append_of_le_length hframe.le]
  exact idx_during_frameMicros cfg _ _ _ _ h1 hframe

/-! ### The operations -/

/-- Of the operations only `INIT` and `CLEAR` write `IDX` (R18). -/
theorem keepsIdx_opMicros (cfg : Cfg) {i : Instr} (hop : ¬ (i.op = 1 ∨ i.op = 4)) :
    ∀ m ∈ opMicros cfg i.op i.a i.b, m.KeepsIdx := by
  obtain hnil | ⟨g, -, hframe⟩ | ⟨v, n, -, hxmit⟩ | ⟨hcounted, -⟩ := opMicros_shape cfg i
  · exact fun m hm => absurd (hnil ▸ hm) List.not_mem_nil
  · exact hframe ▸ keepsIdx_frameMicros cfg g
  · exact hxmit ▸ keepsIdx_xmitMicros v n
  · exact absurd hcounted hop

/-- During frame `i` of `INIT` `IDX = i`. -/
theorem idx_during_initMicros (cfg : Cfg) (s : State) {i j : Nat} (hi : i < 4) (h1 : 1 ≤ j) (hj : j < 74) :
    (s.performAll ((initMicros cfg).take (74 * i + j))).idx = BitVec.ofNat 8 i := by
  refine idx_during_seqMicros (fun g hg => ?_) s hi h1 hj
  obtain ⟨c, -, rfl⟩ := List.mem_map.1 hg
  exact cmdFrame_length cfg c

/-- During frame `i` of `CLEAR` `IDX = i`. -/
theorem idx_during_clearMicros (cfg : Cfg) (a : Byte) (s : State) {i j : Nat} (hi : i < a.toNat) (h1 : 1 ≤ j)
    (hj : j < 104) : (s.performAll ((clearMicros cfg a).take (104 * i + j))).idx = BitVec.ofNat 8 i := by
  refine idx_during_seqMicros (fun g hg => ?_) s (by simpa using hi) h1 hj
  obtain ⟨k, -, rfl⟩ := List.mem_map.1 hg
  exact wrFrame_length cfg _ _

theorem idx_after_initMicros (cfg : Cfg) (s : State) : (s.performAll (initMicros cfg)).idx = 4 :=
  idx_after_seqMicros cfg (List.cons_ne_nil _ _) s

theorem idx_after_clearMicros (cfg : Cfg) {a : Byte} (ha : a.toNat ≠ 0) (s : State) :
    (s.performAll (clearMicros cfg a)).idx = a := by
  rw [clearMicros, idx_after_seqMicros cfg (by simpa using ha), List.length_map, List.length_range, BitVec.ofNat_toNat,
    BitVec.setWidth_eq]

/-- A legal request with events leaves in `IDX` what its list does. -/
theorem exec_idx {s : State} {i : Instr} {v : Byte} (hr : s.reqReady = true) (hw : i.wellFormed s.cfg = true)
    (hm : opMicros s.cfg i.op i.a i.b ≠ [])
    (hidx : ((s.accepted i).performAll (opMicros s.cfg i.op i.a i.b)).idx = v) :
    ∃ t, exec i s = .next t ∧ t.idx = v :=
  ⟨_, exec_events hr hw hm, hidx⟩

/-- A legal request that is neither `INIT` nor `CLEAR` leaves `IDX`. -/
theorem exec_keeps_idx {s : State} {i : Instr} (hr : s.reqReady = true) (hw : i.wellFormed s.cfg = true)
    (hop : ¬ (i.op = 1 ∨ i.op = 4)) : ∃ t, exec i s = .next t ∧ t.idx = s.idx :=
  exec_idx hr hw (opMicros_ne_nil hw fun h => absurd (.inr h) hop)
    (performAll_idx_of_keepsIdx (keepsIdx_opMicros s.cfg hop) _)

/-- `INIT` leaves the number of its frames. -/
theorem execInit_idx {s : State} {a b : Byte} (hr : s.reqReady = true) :
    ∃ t, exec (.init a b) s = .next t ∧ t.idx = 4 := by
  refine exec_idx hr rfl (opMicros_ne_nil rfl (by simp [Instr.op])) ?_
  rw [opMicros_fields, if_pos (wellFormed_init a b)]
  exact idx_after_initMicros s.cfg _

/-- `CLEAR n` leaves `n`, written at acceptance when there is no frame. -/
theorem execClear_idx {s : State} {a b : Byte} (hr : s.reqReady = true) (hw : (Instr.clear a b).wellFormed s.cfg = true) :
    ∃ t, exec (.clear a b) s = .next t ∧ t.idx = a := by
  have hlist : opMicros s.cfg (Instr.clear a b).op (Instr.clear a b).a (Instr.clear a b).b = clearMicros s.cfg a := by
    rw [opMicros_fields, if_pos hw]
  by_cases ha : a.toNat = 0
  · obtain rfl : a = 0 := BitVec.eq_of_toNat_eq ha
    exact ⟨_, exec_noEvents hr hw hlist, rfl⟩
  · exact exec_idx hr hw (opMicros_ne_nil hw fun _ => ha) (hlist ▸ idx_after_clearMicros s.cfg ha _)

/-- Settles O31: the counted frames of `INIT` and `CLEAR`, and the lists without a write of `IDX`. -/
theorem frameCounterCountsFrames : Obligations.FrameCounterCountsFrames := by
  intro s hr
  refine ⟨fun a b i j hi h1 hj => idx_during_initMicros s.cfg _ hi h1 hj,
    fun a b i j hi _ h1 hj => idx_during_clearMicros s.cfg a _ hi h1 hj, fun i hw => ?_⟩
  cases i with
  | init a b => exact execInit_idx hr
  | clear a b => exact execClear_idx hr hw
  | reserved0 a b => exact exec_keeps_idx hr hw (by simp [Instr.op])
  | sendcmd a b => exact exec_keeps_idx hr hw (by simp [Instr.op])
  | wrbyte a b => exact exec_keeps_idx hr hw (by simp [Instr.op])
  | setdig a b => exact exec_keeps_idx hr hw (by simp [Instr.op])
  | setdigdot a b => exact exec_keeps_idx hr hw (by simp [Instr.op])
  | xmit a b => exact exec_keeps_idx hr hw (by simp [Instr.op])

end Sys2Proof.Machine

/-! Every drive of `DATA` is bit 7 of `SR` (R15, R64). -/

namespace Sys2Proof.Machine

/-- Every entry of the list that drives `DATA`, performed in order from `s`, drives bit 7 of the `SR` it finds. -/
def DrivesMsb (s : State) : List Micro → Prop
  | [] => True
  | m :: ms => (∀ l, m.event = .set .data l → s.sr.getLsbD 7 = l) ∧ DrivesMsb (s.perform m) ms

/-- What the predicate says of the entry at place `k`. -/
theorem DrivesMsb.at_entry {s : State} {ms : List Micro} (h : DrivesMsb s ms) {k : Nat} {m : Micro} {l : Level}
    (hm : ms[k]? = some m) (hl : m.event = .set .data l) : (s.performAll (ms.take k)).sr.getLsbD 7 = l := by
  induction ms generalizing s k with
  | nil => cases hm
  | cons m' ms ih =>
    obtain ⟨hfirst, hrest⟩ := h
    cases k with
    | zero =>
      cases hm
      exact hfirst l hl
    | succ k => exact ih hrest hm

theorem drivesMsb_append {s : State} {ms ms' : List Micro} :
    DrivesMsb s (ms ++ ms') ↔ DrivesMsb s ms ∧ DrivesMsb (s.performAll ms) ms' := by
  induction ms generalizing s with
  | nil => simp [DrivesMsb]
  | cons m ms ih => simp only [List.cons_append, DrivesMsb, ih, State.performAll_cons, and_assoc]

theorem drivesMsb_flatMap {α : Type} {f : α → List Micro} {xs : List α} (h : ∀ x ∈ xs, ∀ s, DrivesMsb s (f x))
    (s : State) : DrivesMsb s (xs.flatMap f) := by
  induction xs generalizing s with
  | nil => trivial
  | cons x xs ih =>
    obtain ⟨hx, hxs⟩ := List.forall_mem_cons.1 h
    exact drivesMsb_append.2 ⟨hx s, ih hxs _⟩

/-- A chip-select entry does not drive `DATA`. -/
theorem drivesMsb_cs (pre post : Option RegWrite) (l : Level) (s : State) :
    DrivesMsb s [⟨pre, .set .cs l, post⟩] := by
  simp [DrivesMsb]

/-- One bit drives the level it is given, so that level must be bit 7 of the `SR` its first write leaves. -/
theorem drivesMsb_bitMicros (pre : Option RegWrite) {b : Level} {s : State}
    (h : (s.regWrite? pre).sr.getLsbD 7 = b) : DrivesMsb s (bitMicros pre b) := by
  simp [bitMicros, attach, bitEvents, DrivesMsb, State.perform, ← h]

/-- One shift moves the next bit to the place of the one before it (R65). -/
theorem getLsbD_shiftLeft_one (v : Byte) {k : Nat} (hk : k < 7) :
    (v <<< 1).getLsbD (7 - k) = v.getLsbD (7 - (k + 1)) := by
  have hlt : 7 - k < 8 := by omega
  have hpos : ¬ 7 - k < 1 := by omega
  rw [BitVec.getLsbD_shiftLeft, Nat.sub_sub]
  simp only [hlt, hpos, decide_true, decide_false, Bool.not_false, Bool.true_and]

/-- The bits of a group are the bits of `SR` from bit 7 down, each shifted to bit 7 when its turn comes. -/
theorem drivesMsb_bitsMicros (pre : Option RegWrite) {bs : List Level} {s : State} (hlen : bs.length ≤ 8)
    (h : ∀ k (hk : k < bs.length), (s.regWrite? pre).sr.getLsbD (7 - k) = bs[k]) : DrivesMsb s (bitsMicros pre bs) := by
  induction bs generalizing s pre with
  | nil => trivial
  | cons b bs ih =>
    rw [List.length_cons] at hlen
    obtain ⟨hsr, -, -⟩ := performAll_bitMicros s pre b
    refine drivesMsb_append.2 ⟨drivesMsb_bitMicros pre (h 0 (Nat.zero_lt_succ _)), ih none (by omega) fun k hk => ?_⟩
    rw [State.regWriteOpt_none, hsr, getLsbD_shiftLeft_one _ (by omega)]
    exact h (k + 1) (Nat.succ_lt_succ hk)

/-- One group of at most 8 bits (R64). -/
theorem drivesMsb_xmitMicros (v : Byte) {n : Nat} (hn : n ≤ 8) (s : State) : DrivesMsb s (xmitMicros v n) :=
  drivesMsb_bitsMicros _ (by simpa using hn) fun k hk => by simp [topBits]

theorem drivesMsb_frameMicros (cfg : Cfg) (pre post : Option RegWrite) {g : List Group} (hg : ∀ x ∈ g, x.count ≤ 8)
    (s : State) : DrivesMsb s (frameMicros cfg pre post g) := by
  rw [frameMicros, drivesMsb_append, drivesMsb_append]
  exact ⟨⟨drivesMsb_cs .., drivesMsb_flatMap (fun x hx => drivesMsb_xmitMicros x.value (hg x hx)) _⟩, drivesMsb_cs ..⟩

theorem drivesMsb_seqMicros (cfg : Cfg) {fs : List (List Group)} (hfs : ∀ g ∈ fs, ∀ x ∈ g, x.count ≤ 8) (s : State) :
    DrivesMsb s (seqMicros cfg fs) :=
  drivesMsb_flatMap (fun p hp => drivesMsb_frameMicros cfg _ _ (hfs p.1 (List.fst_mem_of_mem_zipIdx hp))) s

/-- Every operation drives `DATA` from `SR`. -/
theorem drivesMsb_opMicros (cfg : Cfg) (i : Instr) (s : State) : DrivesMsb s (opMicros cfg i.op i.a i.b) := by
  obtain hnil | ⟨g, hg, hframe⟩ | ⟨v, n, hn, hxmit⟩ | ⟨-, fs, hfs, hseq⟩ := opMicros_shape cfg i
  · rw [hnil]
    trivial
  · rw [hframe]
    exact drivesMsb_frameMicros cfg none none hg s
  · rw [hxmit]
    exact drivesMsb_xmitMicros v hn s
  · rw [hseq]
    exact drivesMsb_seqMicros cfg hfs s

/-- The engine's list drives `DATA` from `SR`, whatever request the latches hold. -/
theorem drivesMsb_ev (s s0 : State) : DrivesMsb s0 s.ev := by
  obtain ⟨hop, ha, hb⟩ := fields_decodeFields s.op s.a s.b
  have hlist := drivesMsb_opMicros s.cfg (decodeFields s.op s.a s.b) s0
  rwa [hop, ha, hb] at hlist

/-- Settles O13: a running operation has performed its first `UPC` entries, so the entry at `UPC` finds its bit in
`SR[7]`. -/
theorem dataDriveIsShiftRegisterMsb : Obligations.DataDriveIsShiftRegisterMsb := by
  intro s l hinv hbusy he
  obtain ⟨m, hm, hl⟩ := exists_entry_of_event he
  obtain ⟨-, s0, -, -, hs⟩ := hinv.running hbusy
  rw [hs]
  exact (drivesMsb_ev s s0).at_entry hm hl

end Sys2Proof.Machine

/-! The pattern table (R83) and the layout of the status byte (R23). -/

namespace Sys2Proof.Machine

/-- An index other than 0 reads the configuration's entries, of which there are 16. -/
theorem patRead_of_ne_zero (cfg : Cfg) {i : Byte} (h : i.toNat ≠ 0) : patRead cfg i = cfg.patRest[i.toNat - 1]? := by
  rw [patRead, if_neg]
  rintro rfl
  exact h rfl

/-- Settles O30: entry 0 is a constant, and a later index is that of the vector of 16 plus one. -/
theorem patternTableIsDefinedTo16 : Obligations.PatternTableIsDefinedTo16 := by
  intro cfg i
  refine ⟨rfl, ⟨fun hsome => ?_, fun hle => ?_⟩, fun k hk hi => ?_⟩
  · by_contra hgt
    rw [patRead_of_ne_zero cfg (by omega), Vector.getElem?_eq_none (by omega)] at hsome
    cases hsome
  · obtain ⟨d, hd⟩ := patRead_isSome cfg i hle
    rw [hd]
    rfl
  · rw [patRead_of_ne_zero cfg (by omega), hi, Nat.add_sub_cancel, Vector.getElem?_eq_getElem hk]

/-- The fields of a byte put together as R23 lays `STATUS` out. -/
theorem fields_of_statusLayout (rstat life : BitVec 2) (err busy : Bool) :
    let byte : Byte := (0 : BitVec 2) ++ rstat ++ BitVec.ofBool err ++ life ++ BitVec.ofBool busy
    byte.getLsbD 0 = busy ∧ byte.extractLsb' 1 2 = life ∧ byte.getLsbD 3 = err ∧ byte.extractLsb' 4 2 = rstat ∧
      byte.extractLsb' 6 2 = 0 := by
  revert rstat life err busy
  decide

/-- Settles O39: the fields of `STATUS` are the two flags and the codes of `LIFE` and `RSTAT`. -/
theorem statusByteLayout : Obligations.StatusByteLayout := by
  intro s
  obtain ⟨hbusy, hlife, herr, hrstat, hzero⟩ := fields_of_statusLayout s.rstat.code s.life.code s.err s.busy
  refine ⟨hbusy, hlife.trans ?_, herr, hrstat.trans ?_, hzero⟩
  · cases s.life <;> rfl
  · cases s.rstat <;> rfl

end Sys2Proof.Machine

/-! A frame is determined by its wire bits (R71, R73), and a group by the top bits it sends (R33), so two write frames
are the same when address fields and data are (R35, R36). -/

namespace Sys2Proof.Machine

/-! ### The bits of a group -/

/-- A group of `n` bits carries what is left of its value after the low `8 - n` bits are dropped (R33). -/
theorem topBits_eq_iff {v v' : Byte} {n : Nat} (hn : n ≤ 8) :
    topBits v n = topBits v' n ↔ v >>> (8 - n) = v' >>> (8 - n) := by
  simp only [topBits, List.map_inj_left, List.mem_range]
  constructor
  · intro hbits
    refine BitVec.eq_of_getLsbD_eq fun j hj => ?_
    rw [BitVec.getLsbD_ushiftRight, BitVec.getLsbD_ushiftRight]
    by_cases hjn : j < n
    · have hplace : 8 - n + j = 7 - (n - 1 - j) := by omega
      rw [hplace]
      exact hbits _ (by omega)
    · rw [BitVec.getLsbD_of_ge v _ (by omega), BitVec.getLsbD_of_ge v' _ (by omega)]
  · intro hshift k hk
    have hplace : 7 - k = 8 - n + (n - 1 - k) := by omega
    rw [hplace, ← BitVec.getLsbD_ushiftRight, hshift, BitVec.getLsbD_ushiftRight]

theorem topBits_eight_inj {v v' : Byte} : topBits v 8 = topBits v' 8 ↔ v = v' := by
  simp [topBits_eq_iff (le_refl 8)]

/-- The six address bits read as a number: `trunc_6(2 * A)` (R35). -/
theorem toNat_addrField (a : Byte) : (addrValue a >>> (8 - Config.addrFieldWidth)).toNat = 2 * (a.toNat % 32) := by
  have hdrop : a.toNat * 8 % 256 / 4 = 2 * (a.toNat % 32) := by omega
  simpa [addrValue, Config.addrShift, Config.addrFieldWidth, Nat.shiftLeft_eq, Nat.shiftRight_eq_div_pow] using hdrop

/-- The address field carries the address modulo 32 (R36). -/
theorem topBits_addrValue_eq_iff {a a' : Byte} :
    topBits (addrValue a) Config.addrFieldWidth = topBits (addrValue a') Config.addrFieldWidth ↔
      a.toNat % 32 = a'.toNat % 32 := by
  rw [topBits_eq_iff (by decide), ← BitVec.toNat_inj, toNat_addrField, toNat_addrField]
  exact Nat.mul_right_inj two_ne_zero

/-! ### The bits of a frame -/

theorem flatMap_bitEvents_inj {bs bs' : List Level} : bs.flatMap bitEvents = bs'.flatMap bitEvents ↔ bs = bs' := by
  refine ⟨fun h => ?_, congrArg _⟩
  induction bs generalizing bs' with
  | nil => cases bs' with
    | nil => rfl
    | cons b' bs' => simp [bitEvents] at h
  | cons b bs ih => cases bs' with
    | nil => simp [bitEvents] at h
    | cons b' bs' =>
      obtain ⟨hb, hbs⟩ : b = b' ∧ bs.flatMap bitEvents = bs'.flatMap bitEvents := by simpa [bitEvents] using h
      rw [hb, ih hbs]

/-- A frame is its wire bits between the two chip-select events (R71, R73). -/
theorem frameEvents_eq_bits (cfg : Cfg) (g : List Group) :
    frameEvents cfg g = [.set .cs cfg.csOn] ++ (frameBits g).flatMap bitEvents ++ [.set .cs cfg.csOff] := by
  simp only [frameEvents, frameBits, List.flatMap_assoc, xmitEvents]

theorem frameEvents_inj {cfg : Cfg} {g g' : List Group} :
    frameEvents cfg g = frameEvents cfg g' ↔ frameBits g = frameBits g' := by
  rw [frameEvents_eq_bits, frameEvents_eq_bits, List.append_left_inj, List.append_right_inj, flatMap_bitEvents_inj]

theorem frameBits_cons (x : Group) (g : List Group) : frameBits (x :: g) = topBits x.value x.count ++ frameBits g :=
  List.flatMap_cons

/-- First groups of equal length send the same bits when the frames do. -/
theorem frameBits_cons_inj {v v' : Byte} {n : Nat} {g g' : List Group} :
    frameBits (⟨v, n⟩ :: g) = frameBits (⟨v', n⟩ :: g') ↔ topBits v n = topBits v' n ∧ frameBits g = frameBits g' := by
  rw [frameBits_cons, frameBits_cons]
  exact List.append_eq_append_iff_of_size_eq_left (by simp)

/-- Settles O20: the mode selectors agree, the address fields exactly when the addresses do modulo 32, and the data
groups carry whole bytes. -/
theorem addressesAliasModulo32 : Obligations.AddressesAliasModulo32 := by
  intro cfg a a' d d'
  simp only [wrFrame, wrGroups, frameEvents_inj, frameBits_cons_inj, topBits_addrValue_eq_iff, topBits_eight_inj,
    true_and, and_true]

end Sys2Proof.Machine

/-! Request words and requests are each other's encoding (R53, R54, R59), and `Decode` tells legal from illegal by the
operand ranges (R55, R62). -/

namespace Sys2Proof.Machine

/-- The fields of R53 give the row of R54 back, for operands in range or not. -/
theorem decode_encode (i : Instr) : decode (encode i) = i := by
  obtain ⟨hop, ha, hb⟩ := Laws.EncodedFields.fields_of_encode i
  rw [decode, hop, ha, hb, decodeFields_fields]

/-- Settles O1. -/
theorem decodeOfEncode : Obligations.DecodeOfEncode := decode_encode

/-- The three fields of R53 are all there is in a request word. -/
theorem eq_of_fields_eq {w w' : ReqWord} (hop : opField w = opField w') (ha : aField w = aField w')
    (hb : bField w = bField w') : w = w' := by
  refine BitVec.eq_of_getLsbD_eq fun j hj => ?_
  rcases Nat.lt_or_ge j 8 with hlow | hlow
  · have hbit := congrArg (·.getLsbD j) hb
    simpa [bField, hlow] using hbit
  · rcases Nat.lt_or_ge j 16 with hmid | hmid
    · have hbit := congrArg (·.getLsbD (j - 8)) ha
      simpa [aField, show j - 8 < 8 by omega, Nat.add_sub_cancel' hlow] using hbit
    · have hbit := congrArg (·.getLsbD (j - 16)) hop
      simpa [opField, show j - 16 < 3 by omega, Nat.add_sub_cancel' hmid] using hbit

theorem fields_decode (w : ReqWord) : (decode w).op = opField w ∧ (decode w).a = aField w ∧ (decode w).b = bField w :=
  fields_decodeFields _ _ _

/-- Settles O2: the encoding of the decoded request has the fields of the word. -/
theorem encodeOfDecode : Obligations.EncodeOfDecode := by
  intro w
  obtain ⟨hop, ha, hb⟩ := Laws.EncodedFields.fields_of_encode (decode w)
  obtain ⟨hop', ha', hb'⟩ := fields_decode w
  exact eq_of_fields_eq (hop.trans hop') (ha.trans ha') (hb.trans hb')

/-- Settles O3: each word is, by computation, the encoding of its request. -/
theorem vectorWordsDecode : Obligations.VectorWordsDecode :=
  ⟨decode_encode (.reserved0 0xFF 0xFF), decode_encode (.init 0xAB 0xCD), decode_encode (.sendcmd 0x02 0x77),
    decode_encode (.wrbyte 5 0xFD), decode_encode (.clear 128 0), decode_encode (.setdig 2 16),
    decode_encode (.setdigdot 3 16), decode_encode (.xmit 0xFF 8)⟩

/-- `Decode` of R62 by the operand ranges of the decoded request. -/
theorem decodeLegal_eq (cfg : Cfg) (w : ReqWord) :
    decodeLegal cfg w = if (decode w).wellFormed cfg then .ok (decode w) else .error .invalidArgument := by
  obtain ⟨hop, ha, hb⟩ := fields_decode w
  rw [decodeLegal, ← hop, ← ha, ← hb, legalFields_fields]

/-- Settles O4, row by row: legality is the row's range, stated as inequalities. -/
theorem decodeIsTotalAndChecksRanges : Obligations.DecodeIsTotalAndChecksRanges := by
  refine ⟨rfl, fun cfg w => ?_⟩
  rw [decodeLegal_eq, decode, opField, aField, bField]
  dsimp only
  generalize w.extractLsb' 16 3 = op, w.extractLsb' 8 8 = a, w.extractLsb' 0 8 = b
  obtain ⟨f⟩ := op
  match f with
  | 0 | 1 | 2 => rfl
  | 3 => exact if_congr (wellFormed_wrbyte a b) rfl rfl
  | 4 => exact if_congr (wellFormed_clear a b) rfl rfl
  | 5 => exact if_congr (wellFormed_setdig a b) rfl rfl
  | 6 => exact if_congr (wellFormed_setdigdot a b) rfl rfl
  | 7 => exact if_congr (wellFormed_xmit a b) rfl rfl

/-- Settles O22: the reserved row has no legal operand. -/
theorem reserved0RaisesInvalidArgument : Obligations.Reserved0RaisesInvalidArgument :=
  fun a b _ hr => exec_illFormed hr (wellFormed_reserved0 a b)

end Sys2Proof.Machine

/-! What a selected chip samples of an event list (R67): the bits of a frame, in order (R73), and so the wire bits of
the command frame (R47) and the write frame (R48). -/

namespace Sys2Proof.Machine

/-- A list is sampled piece by piece, each piece from the levels the one before it leaves. -/
theorem sampledCs_append (cfg : Cfg) (es es' : List Event) (cs wr data : Level) :
    sampledCs cfg cs wr data (es ++ es') = sampledCs cfg cs wr data es ++
      sampledCs cfg (levelAfter .cs es cs) (levelAfter .wr es wr) (levelAfter .data es data) es' := by
  induction es generalizing cs wr data with
  | nil => rfl
  | cons e es ih =>
    match e with
    | .wait | .set .cs _ | .set .data _ | .set .wr false => simp [sampledCs, ih]
    | .set .wr true =>
      by_cases hrise : wr = false ∧ cs = cfg.csOn
      · simp [sampledCs, hrise, ih]
      · simp [sampledCs, hrise, ih]

/-- Every bit sent has one rising edge, at which `DATA` is the bit; a selected chip samples all of them (R63). -/
theorem sampledCs_bits_selected (cfg : Cfg) (bs : List Level) (wr data : Level) :
    sampledCs cfg cfg.csOn wr data (bs.flatMap bitEvents) = bs := by
  induction bs generalizing wr data with
  | nil => rfl
  | cons b bs ih =>
    simp [bitEvents, sampledCs, ih]

/-- A frame selects the chip before its first bit and releases it after its last (R71, R73). -/
theorem sampledCs_frameEvents (cfg : Cfg) (g : List Group) (cs wr data : Level) :
    sampledCs cfg cs wr data (frameEvents cfg g) = frameBits g := by
  rw [frameEvents_eq_bits, List.append_assoc, List.singleton_append, sampledCs, sampledCs_append,
    sampledCs_bits_selected]
  exact List.append_nil _

/-- The top four bits of `COMMAND_MODE` are `CMD_PREFIX` (R66). -/
theorem topBits_commandMode (cfg : Cfg) : topBits (commandMode cfg) Config.cmdPrefixWidth =
    [cfg.cmdPrefix.getLsbD 3, cfg.cmdPrefix.getLsbD 2, cfg.cmdPrefix.getLsbD 1, cfg.cmdPrefix.getLsbD 0] := by
  simp [topBits, List.range_succ, commandMode, Config.cmdPrefixWidth, Config.dataWidth]

/-- The top three bits of `WRITE_MODE` are `WR_PREFIX` (R66). -/
theorem topBits_writeMode (cfg : Cfg) : topBits (writeMode cfg) Config.wrPrefixWidth =
    [cfg.wrPrefix.getLsbD 2, cfg.wrPrefix.getLsbD 1, cfg.wrPrefix.getLsbD 0] := by
  simp [topBits, List.range_succ, writeMode, Config.wrPrefixWidth, Config.dataWidth]

/-- The address field is the low five address bits and a 0 (R35, R51). -/
theorem topBits_addrValue (a : Byte) : topBits (addrValue a) Config.addrFieldWidth =
    [a.getLsbD 4, a.getLsbD 3, a.getLsbD 2, a.getLsbD 1, a.getLsbD 0, false] := by
  simp [topBits, List.range_succ, addrValue, Config.addrShift, Config.addrFieldWidth]

/-- Settles O18: the frame's bits are the mode selector and the code. -/
theorem commandFrameWireBits : Obligations.CommandFrameWireBits := by
  intro cfg c cs wr data
  rw [cmdFrame, sampledCs_frameEvents, cmdGroups, frameBits_cons, frameBits_cons, topBits_commandMode]
  rfl

/-- Settles O19: the frame's bits are the mode selector, the address field and the data byte. -/
theorem writeFrameWireBits : Obligations.WriteFrameWireBits := by
  intro cfg a d cs wr data
  rw [wrFrame, sampledCs_frameEvents, wrGroups, frameBits_cons, frameBits_cons, frameBits_cons, topBits_writeMode,
    topBits_addrValue]
  rfl

end Sys2Proof.Machine

/-! What requests do to the wire: a request, or several one after another, appends its events and moves the lines as
they say (R8, R28, R124), so requests with the same events agree on the wire (R86). -/

namespace Sys2Proof.Machine

/-- From `s` to `t` the events `es` have been emitted and no other. -/
structure Emits (s : State) (es : List Event) (t : State) : Prop where
  /-- They stand at the end of `TRACE`. -/
  trace : t.trace = s.trace ++ es
  /-- Every line is where they leave it. -/
  pin : ∀ p, t.pin p = levelAfter p es (s.pin p)

theorem Emits.refl (s : State) : Emits s [] s := ⟨(List.append_nil _).symm, fun _ => rfl⟩

theorem Emits.trans {s t u : State} {es es' : List Event} (h : Emits s es t) (h' : Emits t es' u) :
    Emits s (es ++ es') u :=
  ⟨by rw [h'.trace, h.trace, List.append_assoc], fun p => by rw [h'.pin, h.pin, levelAfter_append]⟩

theorem Emits.sameWire {s t u : State} {es : List Event} (h : Emits s es t) (h' : Emits s es u) : t.sameWire u :=
  ⟨h.trace.trans h'.trace.symm, (h.pin .cs).trans (h'.pin .cs).symm, (h.pin .wr).trans (h'.pin .wr).symm,
    (h.pin .data).trans (h'.pin .data).symm⟩

@[simp] theorem State.accepted_op (s : State) (i : Instr) : (s.accepted i).op = i.op := rfl
@[simp] theorem State.accepted_a (s : State) (i : Instr) : (s.accepted i).a = i.a := rfl
@[simp] theorem State.accepted_pin (s : State) (i : Instr) (p : Pin) : (s.accepted i).pin p = s.pin p := by
  cases p <;> rfl
@[simp] theorem State.complete_pin (s : State) (p : Pin) : s.complete.pin p = s.pin p := by cases p <;> rfl

/-- All a request on a ready port can do: be refused, be answered at acceptance, or perform its list (R26, R28, R89). -/
theorem exec_cases (i : Instr) {s : State} (hr : s.reqReady = true) :
    (i.wellFormed s.cfg = false ∧ opMicros s.cfg i.op i.a i.b = [] ∧ exec i s = .next s.raiseInvalidArgument) ∨
    (i.wellFormed s.cfg = true ∧ opMicros s.cfg i.op i.a i.b = [] ∧
      exec i s = .next ({ s.latch i with idx := 0 }.respond .ok)) ∨
    (i.wellFormed s.cfg = true ∧ opMicros s.cfg i.op i.a i.b ≠ [] ∧
      exec i s = .next (((s.accepted i).performAll (opMicros s.cfg i.op i.a i.b)).complete)) := by
  cases hw : i.wellFormed s.cfg
  case false => exact .inl ⟨rfl, by simp [opMicros_fields, hw], exec_illFormed hr hw⟩
  case true =>
    by_cases hm : opMicros s.cfg i.op i.a i.b = []
    · exact .inr (.inl ⟨rfl, hm, exec_noEvents hr hw hm⟩)
    · exact .inr (.inr ⟨rfl, hm, exec_events hr hw hm⟩)

/-- A request emits the events of its list (R19, R28). -/
theorem exec_emits {i : Instr} {s t : State} (hr : s.reqReady = true) (h : exec i s = .next t) :
    Emits s (opEvents s.cfg i.op i.a i.b) t := by
  rw [opEvents]
  obtain ⟨-, hm, hexec⟩ | ⟨-, hm, hexec⟩ | ⟨-, -, hexec⟩ := exec_cases i hr <;> cases hexec.symm.trans h
  · rw [hm]
    exact ⟨(List.append_nil _).symm, fun p => by cases p <;> rfl⟩
  · rw [hm]
    exact ⟨(List.append_nil _).symm, fun p => by cases p <;> rfl⟩
  · exact ⟨by simp, fun p => by simp [State.performAll_pin]⟩

/-- Of the requests only `INIT` moves `LIFE` (R20, R86). -/
theorem exec_life {i : Instr} {s t : State} (hr : s.reqReady = true) (h : exec i s = .next t) :
    t.life = if i.op = 1 then .inited else s.life := by
  obtain ⟨hw, -, hexec⟩ | ⟨hw, hm, hexec⟩ | ⟨-, -, hexec⟩ := exec_cases i hr <;> cases hexec.symm.trans h
  · rw [if_neg fun hop => by cases i <;> simp [Instr.op] at hop hw]
    rfl
  · rw [if_neg fun hop => opMicros_ne_nil hw (fun hop' => absurd (hop.symm.trans hop') (by decide)) hm]
    rfl
  · simp

/-- Requests on a ready port, one after another, all complete, emit their events in order, and leave `LIFE` when no
`INIT` is among them (R124). -/
theorem execAll_emits {is : List Instr} {s : State} (hr : s.reqReady = true) (hinit : ∀ i ∈ is, i.op ≠ 1) :
    ∃ u, execAll is s = .next u ∧ Emits s (is.flatMap fun i => opEvents s.cfg i.op i.a i.b) u ∧ u.life = s.life := by
  induction is generalizing s with
  | nil => exact ⟨s, rfl, Emits.refl s, rfl⟩
  | cons i is ih =>
    obtain ⟨t, hexec, -, -, hready⟩ := exec_records i hr
    obtain ⟨u, hall, hemits, hlife⟩ := ih hready fun j hj => hinit j (List.mem_cons_of_mem _ hj)
    rw [(extends_exec hexec).cfg] at hemits
    refine ⟨u, by rw [execAll, hexec]; exact hall, (exec_emits hr hexec).trans hemits, ?_⟩
    rw [hlife, exec_life hr hexec, if_neg (hinit i List.mem_cons_self)]

/-- `INIT` sends a command frame for each of its codes, in order (R80). -/
theorem opEvents_init (cfg : Cfg) (a b : Byte) : opEvents cfg 1 a b = (initCodes cfg).flatMap (cmdFrame cfg) :=
  (seqMicros_event cfg _).trans (List.flatMap_map ..)

/-- `SENDCMD` sends one command frame (R74). -/
theorem opEvents_sendcmd (cfg : Cfg) (c b : Byte) : opEvents cfg 2 c b = cmdFrame cfg c := sendcmdMicros_event cfg c

/-- Settles O34: the events of `INIT` are those of the four command frames. -/
theorem initIsFourCommandsButForLife : Obligations.InitIsFourCommandsButForLife := by
  intro s a b hr
  obtain ⟨t, hexec, -⟩ := exec_records (.init a b) hr
  obtain ⟨u, hall, hemits, hlife⟩ := execAll_emits (is := (initCodes s.cfg).map fun c => .sendcmd c 0) hr
    fun i hi => by obtain ⟨c, -, rfl⟩ := List.mem_map.1 hi; exact (by decide : (2 : BitVec 3) ≠ 1)
  have hcmds : ((initCodes s.cfg).map fun c => Instr.sendcmd c 0).flatMap
      (fun i => opEvents s.cfg i.op i.a i.b) = (initCodes s.cfg).flatMap (cmdFrame s.cfg) := by
    simp only [List.flatMap_map, Instr.op, Instr.a, Instr.b, opEvents_sendcmd]
  rw [hcmds, ← opEvents_init s.cfg a b] at hemits
  exact ⟨t, u, hexec, hall, (exec_emits hr hexec).sameWire hemits, exec_life hr hexec, hlife⟩

end Sys2Proof.Machine

/-! The operand latches do not influence a running operation (R17, R57): a request that differs from another only in
operands its list does not depend on leaves a state that differs only in the latches. -/

namespace Sys2Proof.Machine

/-- The state with other operands latched (R17). -/
def State.withOperands (s : State) (a b : Byte) : State := { s with a := a, b := b }

section
variable (s : State) (a b : Byte)

theorem State.regWriteOpt_withOperands (u : Option RegWrite) :
    (s.withOperands a b).regWrite? u = (s.regWrite? u).withOperands a b := by
  rcases u with _ | u
  · rfl
  · cases u <;> rfl

theorem State.emit_withOperands (e : Event) : (s.withOperands a b).emit e = (s.emit e).withOperands a b := by
  match e with
  | .wait | .set .cs _ | .set .wr _ | .set .data _ => rfl

theorem State.perform_withOperands (m : Micro) : (s.withOperands a b).perform m = (s.perform m).withOperands a b := by
  simp only [State.perform, regWriteOpt_withOperands, emit_withOperands]
  rfl

theorem State.performAll_withOperands (ms : List Micro) :
    (s.withOperands a b).performAll ms = (s.performAll ms).withOperands a b := by
  induction ms generalizing s with
  | nil => rfl
  | cons m ms ih => rw [performAll_cons, performAll_cons, perform_withOperands, ih]

end

/-- Legal requests of one operation with the same list differ in what they latch and in nothing else. -/
theorem exec_of_same_list {i j : Instr} {s : State} (hr : s.reqReady = true) (hi : i.wellFormed s.cfg = true)
    (hj : j.wellFormed s.cfg = true) (hop : j.op = i.op)
    (hlist : opMicros s.cfg j.op j.a j.b = opMicros s.cfg i.op i.a i.b) :
    ∃ t, exec i s = .next t ∧ exec j s = .next (t.withOperands j.a j.b) ∧ t.a = i.a := by
  by_cases hm : opMicros s.cfg i.op i.a i.b = []
  · refine ⟨_, exec_noEvents hr hi hm, ?_, rfl⟩
    rw [exec_noEvents hr hj (hlist.trans hm), State.latch, hop]
    rfl
  · refine ⟨_, exec_events hr hi hm, ?_, by simp⟩
    have hacc : s.accepted j = (s.accepted i).withOperands j.a j.b := by
      rw [State.accepted, hop]
      rfl
    rw [exec_events hr hj (hlist ▸ hm), hlist, hacc, State.performAll_withOperands]
    rfl

/-- The same for an operation that ignores its second operand: only the latch `B` differs. -/
theorem exec_of_same_list_and_a {i j : Instr} {s : State} (hr : s.reqReady = true) (hi : i.wellFormed s.cfg = true)
    (hj : j.wellFormed s.cfg = true) (hop : j.op = i.op) (ha : j.a = i.a)
    (hlist : opMicros s.cfg j.op j.a j.b = opMicros s.cfg i.op i.a i.b) :
    ∃ t u, exec i s = .next t ∧ exec j s = .next u ∧ u = { t with b := j.b } := by
  obtain ⟨t, hexec, hexec', hta⟩ := exec_of_same_list hr hi hj hop hlist
  refine ⟨t, _, hexec, hexec', ?_⟩
  rw [ha, ← hta]
  rfl

/-- Every byte fits an operand field (R59). -/
theorem operandByte_toNat (a : Byte) : operandByte a.toNat = some a := by
  simp [operandByte, a.isLt]

theorem assembleTwo_toNat (c : Byte → Byte → Instr) (a b : Byte) :
    assembleTwo c a.toNat b.toNat = some (.request (encode (c a b))) := by
  simp only [assembleTwo, operandByte_toNat]

/-- Settles O35: the ignored fields are no argument of the lists, nor of the ranges. -/
theorem ignoredFieldsAreOnlyLatched : Obligations.IgnoredFieldsAreOnlyLatched := by
  refine ⟨rfl, fun a => ⟨assembleTwo_toNat .sendcmd a 0, assembleTwo_toNat .clear a 0⟩,
    fun s a a' b b' hr => ⟨?_, ?_, fun ha => ?_, fun ha => ?_⟩⟩
  · obtain ⟨t, hexec, hexec', -⟩ := exec_of_same_list (i := .init a b) (j := .init a' b') hr rfl rfl rfl rfl
    exact ⟨t, _, hexec, hexec', rfl⟩
  · exact exec_of_same_list_and_a (i := .sendcmd a b) (j := .sendcmd a b') hr rfl rfl rfl rfl rfl
  · exact exec_of_same_list_and_a (i := .clear a b) (j := .clear a b') hr ((wellFormed_clear a b).2 ha)
      ((wellFormed_clear a b').2 ha) rfl rfl rfl
  · have hill (b : Byte) : (Instr.clear a b).wellFormed s.cfg = false :=
      Bool.eq_false_iff.2 fun hw => absurd ((wellFormed_clear a b).1 hw) (Nat.not_le.2 ha)
    rw [exec_illFormed hr (hill b), exec_illFormed hr (hill b')]

end Sys2Proof.Machine

/-! The registers and the samples of the serializer's list (R65, R67), the counts of events and settle times (R70, R77,
R123), and `XMIT` (R68). -/

namespace Sys2Proof.Machine

/-! ### The registers during a group (R65) -/

theorem bitMicros_length (pre : Option RegWrite) (b : Level) : (bitMicros pre b).length = 6 := rfl

/-- The first `6 * k` entries of a group are those of its first `k` bits. -/
theorem take_bitsMicros (pre : Option RegWrite) (bs : List Level) (k : Nat) :
    (bitsMicros pre bs).take (6 * k) = bitsMicros pre (bs.take k) := by
  induction bs generalizing pre k with
  | nil => simp [bitsMicros]
  | cons b bs ih =>
    cases k with
    | zero => rfl
    | succ k =>
      rw [bitsMicros, Nat.mul_succ, Nat.add_comm, ← bitMicros_length pre b, List.take_length_add_append,
        bitMicros_length, ih]
      rfl

/-- The first event of a group that has a bit loads `SR` and `BC`. -/
theorem performAll_first_xmitMicros (s : State) (v : Byte) {n : Nat} (h : 1 ≤ n) :
    (s.performAll ((xmitMicros v n).take 1)).sr = v ∧
    (s.performAll ((xmitMicros v n).take 1)).bc = BitVec.ofNat 4 n := by
  obtain ⟨b, bs, hbits⟩ : ∃ b bs, topBits v n = b :: bs :=
    List.exists_cons_of_length_pos (by rw [topBits_length]; omega)
  rw [xmitMicros, hbits]
  simp [bitsMicros, bitMicros, attach, bitEvents, State.perform]

/-- After `k` bits of a group `SR` has been shifted and `BC` counted down `k` times. -/
theorem performAll_bits_of_xmitMicros (s : State) (v : Byte) {n k : Nat} (h1 : 1 ≤ k) (hk : k ≤ n) (hn : n ≤ 8) :
    (s.performAll ((xmitMicros v n).take (6 * k))).sr = v <<< k ∧
    (s.performAll ((xmitMicros v n).take (6 * k))).bc = BitVec.ofNat 4 (n - k) := by
  have hlen : ((topBits v n).take k).length = k := by rw [List.length_take, topBits_length, Nat.min_eq_left hk]
  obtain ⟨hsr, hbc, -⟩ := performAll_bitsMicros_load s v (BitVec.ofNat 4 n) ((topBits v n).take k)
    (List.ne_nil_of_length_pos (by omega))
  rw [xmitMicros, take_bitsMicros, hsr, hbc, hlen, BitVec.ofNat_sub_ofNat_of_le n k (by omega) hk]
  exact ⟨rfl, rfl⟩

/-- Settles O14: the loading first event, the shifts, and the levels the last bit leaves. -/
theorem xmitRegisterEffects : Obligations.XmitRegisterEffects := by
  intro s v n h1 hn
  obtain ⟨hsr1, hbc1⟩ := performAll_first_xmitMicros s v h1
  obtain ⟨hsr, hbc, -⟩ := performAll_xmitMicros s v n h1
  refine ⟨hsr1, hbc1, fun k hk hkn => performAll_bits_of_xmitMicros s v hk hkn hn, hsr, hbc, fun h8 => ?_, ?_, ?_, ?_⟩
  · rw [hsr, h8]
    exact BitVec.shiftLeft_eq_zero le_rfl
  · rw [State.performAll_wr, xmitMicros_event, levelAfter_xmit_wr v n h1]
  · rw [State.performAll_data, xmitMicros_event, levelAfter_xmit_data v n h1]
  · rw [State.performAll_cs, xmitMicros_event, levelAfter_xmit_cs]

/-! ### The samples of a group (R67) -/

/-- Each bit lowers `WR` before it raises it, so it has one rising edge, at which `DATA` is the bit. -/
theorem sampled_bits (bs : List Level) (wr data : Level) : sampled wr data (bs.flatMap bitEvents) = bs := by
  induction bs generalizing wr data with
  | nil => rfl
  | cons b bs ih => simp [bitEvents, sampled, ih]

/-- Bits do not select a chip, so one that is not selected samples none of them. -/
theorem sampledCs_bits_unselected (cfg : Cfg) (bs : List Level) {cs : Level} (hcs : cs ≠ cfg.csOn) (wr data : Level) :
    sampledCs cfg cs wr data (bs.flatMap bitEvents) = [] := by
  induction bs generalizing wr data with
  | nil => rfl
  | cons b bs ih => simp [bitEvents, sampledCs, hcs, ih]

theorem csOff_ne_csOn (cfg : Cfg) : cfg.csOff ≠ cfg.csOn := Bool.not_ne_self cfg.csOn

/-- Settles O15: the samples are the bits sent, or none. -/
theorem serializerReconstructsTopBits : Obligations.SerializerReconstructsTopBits := by
  intro v n _ _ cfg wr data
  rw [xmitEvents, sampled_bits]
  refine ⟨topBits_length v n, fun k hk => ?_, sampledCs_bits_unselected cfg _ (csOff_ne_csOn cfg) wr data,
    sampledCs_bits_selected cfg _ wr data⟩
  simp [topBits, hk]

/-! ### Counts (R70, R77) and least durations (R123) -/

/-- Every event is a `Set` or a `Wait` (R8). -/
theorem setCount_add_waitCount (es : List Event) : setCount es + waitCount es = es.length := by
  rw [setCount, waitCount, List.count, Nat.add_comm, List.length_eq_countP_add_countP (p := (· == Event.wait))]
  exact congrArg _ (List.countP_congr fun e _ => by simp)

theorem waitCount_append (es es' : List Event) : waitCount (es ++ es') = waitCount es + waitCount es' :=
  List.count_append

theorem waitCount_flatMap_const {α : Type} {f : α → List Event} {w : Nat} (h : ∀ x, waitCount (f x) = w)
    (xs : List α) : waitCount (xs.flatMap f) = w * xs.length := by
  induction xs with
  | nil => rfl
  | cons x xs ih => rw [List.flatMap_cons, waitCount_append, h, ih, List.length_cons, Nat.mul_succ, Nat.add_comm]

theorem waitCount_bits (bs : List Level) : waitCount (bs.flatMap bitEvents) = 3 * bs.length :=
  waitCount_flatMap_const (f := bitEvents) (fun _ => rfl) bs

theorem waitCount_xmitEvents (v : Byte) (n : Nat) : waitCount (xmitEvents v n) = 3 * n := by
  rw [xmitEvents, waitCount_bits, topBits_length]

/-- The chip-select events of a frame add no `Wait` to those of its bits. -/
theorem waitCount_frameEvents (cfg : Cfg) (g : List Group) :
    waitCount (frameEvents cfg g) = 3 * (frameBits g).length := by
  rw [frameEvents_eq_bits, waitCount_append, waitCount_append, waitCount_bits]
  exact Nat.zero_add _

theorem waitCount_cmdFrame (cfg : Cfg) (c : Byte) : waitCount (cmdFrame cfg c) = 36 := waitCount_frameEvents cfg _

theorem waitCount_wrFrame (cfg : Cfg) (a d : Byte) : waitCount (wrFrame cfg a d) = 51 := waitCount_frameEvents cfg _

theorem opEvents_clear {cfg : Cfg} {a : Byte} (b : Byte) (ha : a.toNat ≤ cfg.clearMax.val) :
    opEvents cfg 4 a b = (List.range a.toNat).flatMap fun i => wrFrame cfg (BitVec.ofNat 8 i) 0 := by
  have hlist : opMicros cfg 4 a b = clearMicros cfg a :=
    (opMicros_fields cfg (.clear a b)).trans (if_pos ((wellFormed_clear a b).2 ha))
  rw [opEvents, hlist, clearMicros_event]

theorem waitCount_init (cfg : Cfg) (a b : Byte) : waitCount (opEvents cfg 1 a b) = 144 := by
  rw [opEvents_init, waitCount_flatMap_const (waitCount_cmdFrame cfg)]
  rfl

theorem waitCount_clear {cfg : Cfg} {a : Byte} (b : Byte) (ha : a.toNat ≤ cfg.clearMax.val) :
    waitCount (opEvents cfg 4 a b) = 51 * a.toNat := by
  rw [opEvents_clear b ha, waitCount_flatMap_const fun _ => waitCount_wrFrame cfg _ _, List.length_range]

theorem leastMicros_of_waitCount {cfg : Cfg} {es : List Event} {w : Nat} (h : waitCount es = w) :
    leastMicros cfg es = w * cfg.tSettleUs := by rw [leastMicros, h]

/-- The number of `Set`s from the number of events and of `Wait`s. -/
theorem setCount_of_counts {es : List Event} {l w : Nat} (hl : es.length = l) (hw : waitCount es = w) :
    setCount es = l - w := by
  rw [← hl, ← hw, ← setCount_add_waitCount, Nat.add_sub_cancel]

/-- Settles O16: the lengths and the numbers of `Wait`s give the rest. -/
theorem eventCountsAndLeastDurations : Obligations.EventCountsAndLeastDurations := by
  refine fun cfg => ⟨fun v n _ _ => ?_, fun c => ?_, fun a d => ?_, fun a b => ?_, fun a b ha => ?_⟩
  · have hwait := waitCount_xmitEvents v n
    have hlen := xmitEvents_length v n
    exact ⟨(setCount_of_counts hlen hwait).trans (by omega), hwait, hlen, leastMicros_of_waitCount hwait⟩
  · have hwait := waitCount_cmdFrame cfg c
    have hlen := cmdFrame_length cfg c
    exact ⟨hlen, setCount_of_counts hlen hwait, hwait, leastMicros_of_waitCount hwait⟩
  · have hwait := waitCount_wrFrame cfg a d
    have hlen := wrFrame_length cfg a d
    exact ⟨hlen, setCount_of_counts hlen hwait, hwait, leastMicros_of_waitCount hwait⟩
  · exact ⟨(List.length_map _).trans (opMicros_length cfg (.init a b) rfl),
      leastMicros_of_waitCount (waitCount_init cfg a b)⟩
  · exact ⟨(List.length_map _).trans (opMicros_length cfg (.clear a b) ((wellFormed_clear a b).2 ha)),
      leastMicros_of_waitCount (waitCount_clear b ha)⟩

/-! ### The whole next state of a request, and `XMIT` -/

@[simp] theorem State.accepted_b (s : State) (i : Instr) : (s.accepted i).b = i.b := rfl
@[simp] theorem State.accepted_agenda (s : State) (i : Instr) : (s.accepted i).agenda = s.agenda := rfl
@[simp] theorem State.accepted_resets (s : State) (i : Instr) : (s.accepted i).resets = s.resets := rfl

/-- A legal request whose list leaves no bit to send: the whole next state, the lines as its events leave them, `SR`
and `IDX` as its list does (R26, R27, R28). -/
theorem exec_finished {s : State} {i : Instr} {ms : List Micro} (hr : s.reqReady = true)
    (hw : i.wellFormed s.cfg = true) (hlist : opMicros s.cfg i.op i.a i.b = ms) (hne : ms ≠ [])
    (hbc : ((s.accepted i).performAll ms).bc = 0) :
    exec i s = .next
      { s.finished i (ms.map Micro.event) with
        cs := levelAfter .cs (ms.map Micro.event) s.cs, wr := levelAfter .wr (ms.map Micro.event) s.wr,
        data := levelAfter .data (ms.map Micro.event) s.data, sr := ((s.accepted i).performAll ms).sr,
        idx := ((s.accepted i).performAll ms).idx, life := if i.op = 1 then .inited else s.life } := by
  subst hlist
  rw [exec_events hr hw hne]
  congr 1
  ext1 <;> simp [State.finished, hbc]

/-- A request out of range leaves exactly the record of the fault (R93). -/
theorem exec_faulted {s : State} {i : Instr} (hr : s.reqReady = true) (hw : i.wellFormed s.cfg = false) :
    exec i s = .next s.faulted :=
  exec_illFormed hr hw

/-- `XMIT` with a count in range (R68). -/
theorem exec_xmit {s : State} {a b : Byte} (hr : s.reqReady = true) (h1 : 1 ≤ b.toNat) (h8 : b.toNat ≤ 8) :
    exec (.xmit a b) s = .next
      { s.finished (.xmit a b) (xmitEvents a b.toNat) with
        wr := true, data := a.getLsbD (8 - b.toNat), sr := a <<< b.toNat } := by
  have hw : (Instr.xmit a b).wellFormed s.cfg = true := (wellFormed_xmit a b).2 ⟨h1, h8⟩
  have hlist : opMicros s.cfg (Instr.xmit a b).op (Instr.xmit a b).a (Instr.xmit a b).b = xmitMicros a b.toNat := by
    rw [opMicros_fields, if_pos hw]
  have hne : xmitMicros a b.toNat ≠ [] := List.ne_nil_of_length_pos (by rw [xmitMicros_length]; omega)
  obtain ⟨hsr, hbc, hidx⟩ := performAll_xmitMicros (s.accepted (.xmit a b)) a b.toNat h1
  rw [exec_finished hr hw hlist hne hbc, hsr, hidx, xmitMicros_event, levelAfter_xmit_cs,
    levelAfter_xmit_wr _ _ h1, levelAfter_xmit_data _ _ h1]
  rfl

/-- Settles O23: the ranges of `B` are those of the well-formed request, and the group selects no chip. -/
theorem xmitSendsTopBits : Obligations.XmitSendsTopBits := by
  refine fun a b => ⟨rfl, fun s hr => ⟨fun h1 h8 => ⟨exec_xmit hr h1 h8, xmitEvents_length a b.toNat,
    sampledCs_bits_unselected s.cfg _ (csOff_ne_csOn s.cfg) s.wr s.data⟩, fun hout => exec_faulted hr ?_⟩⟩
  rw [Bool.eq_false_iff, ne_eq, wellFormed_xmit]
  omega

end Sys2Proof.Machine

/-! A frame as a whole: what it does to the state (R71, R73), the framing discipline of R72, and the operations that
send one frame of their operands (R74, R76). -/

namespace Sys2Proof.Machine

/-! ### The last bit and the registers after a frame (R73) -/

theorem topBits_getLast? (v : Byte) {n : Nat} (h : 1 ≤ n) : (topBits v n).getLast? = some (v.getLsbD (8 - n)) := by
  obtain ⟨m, rfl⟩ := Nat.exists_eq_add_of_le' h
  simp [topBits, List.range_succ]

/-- The last bit of a frame is that of its last group. -/
theorem frameBits_getLast? (g : List Group) {x : Group} (h : 1 ≤ x.count) :
    (frameBits (g ++ [x])).getLast? = some (x.value.getLsbD (8 - x.count)) := by
  rw [frameBits, List.flatMap_append, List.flatMap_singleton, List.getLast?_append, topBits_getLast? x.value h,
    Option.some_or]

/-- A frame without writes of `IDX`, by its last group. -/
theorem performAll_plainFrame (s : State) (cfg : Cfg) {g : List Group} {x : Group} (hg : ∀ y ∈ g, 1 ≤ y.count)
    (hx : 1 ≤ x.count) :
    (s.performAll (frameMicros cfg none none (g ++ [x]))).sr = x.value <<< x.count ∧
    (s.performAll (frameMicros cfg none none (g ++ [x]))).bc = 0 ∧
    (s.performAll (frameMicros cfg none none (g ++ [x]))).idx = s.idx := by
  obtain ⟨hsr, hbc, hidx, -⟩ := performAll_frameMicros s cfg none none g x hg hx fun _ => ⟨rfl, rfl⟩
  exact ⟨hsr, hbc, hidx ⟨rfl, rfl⟩⟩

/-- Settles O17: the samples and the length hold of every list of groups; lines and registers are left by the last. -/
theorem selectedChipSeesFrameBits : Obligations.SelectedChipSeesFrameBits := by
  intro cfg g cs wr data hcount
  refine ⟨sampledCs_frameEvents cfg g cs wr data, frameEvents_length cfg g, fun s x hlast => ?_⟩
  obtain ⟨g, rfl⟩ := List.getLast?_eq_some_iff.1 hlast
  have hx : 1 ≤ x.count := (hcount x (by simp)).1
  obtain ⟨hsr, hbc, -⟩ := performAll_plainFrame s cfg (fun y hy => (hcount y (List.mem_append_left _ hy)).1) hx
  obtain ⟨hwr, -⟩ := levelAfter_frame_last cfg g x hx s.wr
  obtain ⟨-, hdata⟩ := levelAfter_frame_last cfg g x hx s.data
  refine ⟨?_, ?_, ?_, ?_, hsr, hbc⟩
  · rw [State.performAll_trace, frameMicros_event]
  · rw [State.performAll_cs, frameMicros_event, levelAfter_frame_cs]
  · rw [State.performAll_wr, frameMicros_event, hwr]
  · rw [State.performAll_data, frameMicros_event, hdata, frameBits_getLast? g hx]

/-! ### The operations of one frame, and the group of `XMIT` -/

section
variable {cfg : Cfg} {a b : Byte}

theorem opMicros_wrbyte (ha : a.toNat ≤ 127) : opMicros cfg 3 a b = frameMicros cfg none none (wrGroups cfg a b) :=
  (opMicros_fields cfg (.wrbyte a b)).trans (if_pos ((wellFormed_wrbyte a b).2 ha))

theorem opMicros_setdig {d : Byte} (ha : a.toNat ≤ 127) (hb : b.toNat ≤ 16) (hd : patRead cfg b = some d) :
    opMicros cfg 5 a b = frameMicros cfg none none (wrGroups cfg a d) := by
  refine (opMicros_fields cfg (.setdig a b)).trans ((if_pos ((wellFormed_setdig a b).2 ⟨ha, hb⟩)).trans ?_)
  simp only [setdigMicros, digitData, hd]

theorem opMicros_setdigdot {d : Byte} (ha : a.toNat ≤ 127) (hb : b.toNat ≤ 16) (hd : patRead cfg b = some d) :
    opMicros cfg 6 a b = frameMicros cfg none none (wrGroups cfg a (d ||| Config.dotMask)) := by
  refine (opMicros_fields cfg (.setdigdot a b)).trans ((if_pos ((wellFormed_setdigdot a b).2 ⟨ha, hb⟩)).trans ?_)
  simp only [setdigdotMicros, digitDotData, hd, Option.map_some]

theorem opEvents_xmit (h1 : 1 ≤ b.toNat) (h8 : b.toNat ≤ 8) : opEvents cfg 7 a b = xmitEvents a b.toNat := by
  have hlist : opMicros cfg 7 a b = xmitMicros a b.toNat :=
    (opMicros_fields cfg (.xmit a b)).trans (if_pos ((wellFormed_xmit a b).2 ⟨h1, h8⟩))
  rw [opEvents, hlist, xmitMicros_event]

end

/-! ### The framing discipline (R72) -/

/-- Bits neither break an open frame nor close it. -/
theorem framing_bits_append (cfg : Cfg) (bs : List Level) (es : List Event) :
    framing cfg true (bs.flatMap bitEvents ++ es) = framing cfg true es := by
  induction bs with
  | nil => rfl
  | cons b bs ih => simpa [bitEvents, framing] using ih

/-- A frame opens and closes, so what follows it is read from outside a frame. -/
theorem framing_frameEvents_append (cfg : Cfg) (g : List Group) (es : List Event) :
    framing cfg false (frameEvents cfg g ++ es) = framing cfg false es := by
  simp [frameEvents_eq_bits, framing, framing_bits_append]

/-- Bits have no chip-select event. -/
theorem cs_not_mem_bits (bs : List Level) (l : Level) : Event.set .cs l ∉ bs.flatMap bitEvents := by
  simp [bitEvents]

/-- Of the two chip-select events of a frame one asserts. -/
theorem frameCount_frameEvents_append (cfg : Cfg) (g : List Group) (es : List Event) :
    frameCount cfg (frameEvents cfg g ++ es) = frameCount cfg es + 1 := by
  have hbits : ((frameBits g).flatMap bitEvents).count (.set .cs cfg.csOn) = 0 :=
    List.count_eq_zero.2 (cs_not_mem_bits _ _)
  simp [frameCount, frameEvents_eq_bits, hbits, csOff_ne_csOn]

/-- Frames one after another keep the discipline, and each is counted once. -/
theorem framing_frames (cfg : Cfg) {α : Type} (f : α → List Group) (xs : List α) :
    framing cfg false (xs.flatMap fun x => frameEvents cfg (f x)) = some false ∧
    frameCount cfg (xs.flatMap fun x => frameEvents cfg (f x)) = xs.length := by
  induction xs with
  | nil => exact ⟨rfl, rfl⟩
  | cons x xs ih =>
    obtain ⟨hframing, hcount⟩ := ih
    rw [List.flatMap_cons, framing_frameEvents_append, frameCount_frameEvents_append, hcount]
    exact ⟨hframing, rfl⟩

/-- An operation whose list is one frame. -/
theorem framing_of_oneFrame {cfg : Cfg} {op : BitVec 3} {a b : Byte} {g : List Group}
    (hlist : opMicros cfg op a b = frameMicros cfg none none g) :
    framing cfg false (opEvents cfg op a b) = some false ∧ frameCount cfg (opEvents cfg op a b) = 1 := by
  rw [opEvents, hlist, frameMicros_event]
  simpa using framing_frames cfg id [g]

/-- Settles O21: the events of an operation are its frames one after another, or, for `XMIT`, the bits of one group. -/
theorem operationsKeepFraming : Obligations.OperationsKeepFraming := by
  intro cfg i hw
  cases i with
  | reserved0 a b => cases hw
  | init a b =>
    dsimp only
    rw [opEvents_init]
    exact framing_frames cfg (cmdGroups cfg) (initCodes cfg)
  | sendcmd a b => exact framing_of_oneFrame (g := cmdGroups cfg a) rfl
  | wrbyte a b => exact framing_of_oneFrame (opMicros_wrbyte ((wellFormed_wrbyte a b).1 hw))
  | clear a b =>
    dsimp only
    have hframes := framing_frames cfg (fun i => wrGroups cfg (BitVec.ofNat 8 i) 0) (List.range a.toNat)
    rw [List.length_range] at hframes
    rw [opEvents_clear b ((wellFormed_clear a b).1 hw)]
    exact hframes
  | setdig a b =>
    obtain ⟨ha, hb⟩ := (wellFormed_setdig a b).1 hw
    obtain ⟨d, hd⟩ := patRead_isSome cfg b hb
    exact framing_of_oneFrame (opMicros_setdig ha hb hd)
  | setdigdot a b =>
    obtain ⟨ha, hb⟩ := (wellFormed_setdigdot a b).1 hw
    obtain ⟨d, hd⟩ := patRead_isSome cfg b hb
    exact framing_of_oneFrame (opMicros_setdigdot ha hb hd)
  | xmit v n =>
    obtain ⟨h1, h8⟩ := (wellFormed_xmit v n).1 hw
    intro l
    rw [opEvents_xmit h1 h8]
    exact cs_not_mem_bits _ l

/-! ### The whole next state of an operation of one frame -/

/-- A legal request, other than `INIT`, whose list is one frame that ends with the byte `d`: chip-select released, the
clock high, `DATA` at the byte's last bit, and `SR` shifted empty (R27, R28, R73). -/
theorem exec_frame {s : State} {i : Instr} {g : List Group} {d : Byte} (hr : s.reqReady = true)
    (hw : i.wellFormed s.cfg = true) (hop : i.op ≠ 1) (hg : ∀ y ∈ g, 1 ≤ y.count)
    (hlist : opMicros s.cfg i.op i.a i.b = frameMicros s.cfg none none (g ++ [⟨d, Config.dataWidth⟩])) :
    exec i s = .next
      { s.finished i (frameEvents s.cfg (g ++ [⟨d, Config.dataWidth⟩])) with
        cs := s.cfg.csOff, wr := true, data := d.getLsbD 0, sr := 0 } := by
  have hx : 1 ≤ (⟨d, Config.dataWidth⟩ : Group).count := Nat.le_add_left 1 7
  have hne : frameMicros s.cfg none none (g ++ [⟨d, Config.dataWidth⟩]) ≠ [] := by simp [frameMicros]
  obtain ⟨hsr, hbc, hidx⟩ := performAll_plainFrame (s.accepted i) s.cfg hg hx
  obtain ⟨hwr, -⟩ := levelAfter_frame_last s.cfg g _ hx s.wr
  obtain ⟨-, hdata⟩ := levelAfter_frame_last s.cfg g _ hx s.data
  have hempty : d <<< Config.dataWidth = 0 := BitVec.shiftLeft_eq_zero le_rfl
  rw [exec_finished hr hw hlist hne hbc, hsr, hidx, frameMicros_event, levelAfter_frame_cs, hwr, hdata, hempty,
    if_neg hop]
  rfl

/-- Settles O24: one command frame, legal with every code. -/
theorem sendcmdSendsCommandFrame : Obligations.SendcmdSendsCommandFrame := by
  refine fun a b => ⟨rfl, fun s hr => ⟨?_, cmdFrame_length s.cfg a, commandFrameWireBits s.cfg a s.cs s.wr s.data⟩⟩
  exact exec_frame (g := [⟨commandMode s.cfg, Config.cmdPrefixWidth⟩]) hr rfl (by simp [Instr.op]) (by simp) rfl

/-- Settles O25: one write frame when the address is in range, else the fault. -/
theorem wrbyteSendsWriteFrame : Obligations.WrbyteSendsWriteFrame := by
  refine fun a b => ⟨rfl, fun s hr => ⟨fun ha => ⟨?_, wrFrame_length s.cfg a b⟩, fun ha => exec_faulted hr ?_⟩⟩
  · exact exec_frame (g := [⟨writeMode s.cfg, Config.wrPrefixWidth⟩, ⟨addrValue a, Config.addrFieldWidth⟩]) hr
      ((wellFormed_wrbyte a b).2 ha) (by simp [Instr.op]) (by simp) (opMicros_wrbyte ha)
  · rw [Bool.eq_false_iff, ne_eq, wellFormed_wrbyte]
    omega

end Sys2Proof.Machine

/-! Counted frames as a whole: the state an operation of several frames leaves (R18, R73, R82), and the fixed sequences
`INIT` (R80) and `CLEAR` (R81). -/

namespace Sys2Proof.Machine

/-! ### What a sequence of frames leaves, by the last group of its last frame -/

theorem levelAfter_frames_last (cfg : Cfg) {fs : List (List Group)} {g : List Group} {x : Group}
    (hlast : fs.getLast? = some (g ++ [x])) (hx : 1 ≤ x.count) :
    (∀ l, levelAfter .cs (fs.flatMap (frameEvents cfg)) l = cfg.csOff) ∧
    (∀ l, levelAfter .wr (fs.flatMap (frameEvents cfg)) l = true) ∧
    ∀ l, levelAfter .data (fs.flatMap (frameEvents cfg)) l = x.value.getLsbD (8 - x.count) := by
  obtain ⟨fs, rfl⟩ := List.getLast?_eq_some_iff.1 hlast
  simp only [List.flatMap_append, List.flatMap_singleton, levelAfter_append]
  exact ⟨fun l => levelAfter_frame_cs .., fun l => (levelAfter_frame_last cfg g x hx _).1,
    fun l => (levelAfter_frame_last cfg g x hx _).2⟩

theorem performAll_seqMicros (s : State) (cfg : Cfg) {fs : List (List Group)} {g : List Group} {x : Group}
    (hlast : fs.getLast? = some (g ++ [x])) (hg : ∀ y ∈ g, 1 ≤ y.count) (hx : 1 ≤ x.count) :
    (s.performAll (seqMicros cfg fs)).sr = x.value <<< x.count ∧ (s.performAll (seqMicros cfg fs)).bc = 0 := by
  obtain ⟨fs, rfl⟩ := List.getLast?_eq_some_iff.1 hlast
  rw [seqMicros_append, State.performAll_append, List.zipIdx_singleton, List.flatMap_singleton]
  obtain ⟨hsr, hbc, -⟩ := performAll_frameMicros (s.performAll (seqMicros cfg fs)) cfg
    (some (.idxSet (BitVec.ofNat 8 fs.length))) (some .idxInc) g x hg hx fun _ => ⟨rfl, rfl⟩
  exact ⟨hsr, hbc⟩

/-- A legal request whose list is a sequence of counted frames, the last of which ends with the byte `d`: chip-select
released, the clock high, `DATA` at the byte's last bit, `SR` shifted empty, and the number of frames in `IDX` (R18,
R27, R28, R73). -/
theorem exec_frames {s : State} {i : Instr} {fs : List (List Group)} {g : List Group} {d : Byte}
    (hr : s.reqReady = true) (hw : i.wellFormed s.cfg = true)
    (hlist : opMicros s.cfg i.op i.a i.b = seqMicros s.cfg fs)
    (hlast : fs.getLast? = some (g ++ [⟨d, Config.dataWidth⟩])) (hg : ∀ y ∈ g, 1 ≤ y.count) :
    exec i s = .next
      { s.finished i (fs.flatMap (frameEvents s.cfg)) with
        cs := s.cfg.csOff, wr := true, data := d.getLsbD 0, sr := 0, idx := BitVec.ofNat 8 fs.length,
        life := if i.op = 1 then .inited else s.life } := by
  have hx : 1 ≤ (⟨d, Config.dataWidth⟩ : Group).count := Nat.le_add_left 1 7
  have hfs : fs ≠ [] := by rintro rfl; cases hlast
  obtain ⟨hsr, hbc⟩ := performAll_seqMicros (s.accepted i) s.cfg hlast hg hx
  have hne : seqMicros s.cfg fs ≠ [] := by
    obtain ⟨g', fs', rfl⟩ := List.exists_cons_of_ne_nil hfs
    simp [seqMicros, frameMicros]
  obtain ⟨hcs, hwr, hdata⟩ := levelAfter_frames_last s.cfg hlast hx
  have hempty : d <<< Config.dataWidth = 0 := BitVec.shiftLeft_eq_zero le_rfl
  rw [exec_finished hr hw hlist hne hbc, hsr, idx_after_seqMicros s.cfg hfs, seqMicros_event, hcs, hwr, hdata, hempty]
  rfl

/-! ### `INIT` and `CLEAR` -/

/-- Settles O26: the four command frames, the last of which ends with the last code. -/
theorem initSendsFourCommandFrames : Obligations.InitSendsFourCommandFrames := by
  refine fun a b => ⟨rfl, fun s hr => ?_⟩
  rw [← initMicros_event, initMicros, seqMicros_event]
  exact exec_frames (g := [⟨commandMode s.cfg, Config.cmdPrefixWidth⟩]) hr (wellFormed_init a b) rfl rfl (by simp)

/-- `CLEAR` of at least one place, in range (R81). -/
theorem exec_clear {s : State} {a b : Byte} (hr : s.reqReady = true) (h1 : 1 ≤ a.toNat)
    (hmax : a.toNat ≤ s.cfg.clearMax.val) :
    exec (.clear a b) s = .next
      { s.finished (.clear a b) ((List.range a.toNat).flatMap fun i => wrFrame s.cfg (BitVec.ofNat 8 i) 0) with
        cs := s.cfg.csOff, wr := true, data := false, sr := 0, idx := a } := by
  have hw : (Instr.clear a b).wellFormed s.cfg = true := (wellFormed_clear a b).2 hmax
  have hlist : opMicros s.cfg 4 a b = clearMicros s.cfg a := (opMicros_fields s.cfg (.clear a b)).trans (if_pos hw)
  have hlast : ((List.range a.toNat).map fun i => wrGroups s.cfg (BitVec.ofNat 8 i) clearData).getLast? =
      some (wrGroups s.cfg (BitVec.ofNat 8 (a.toNat - 1)) clearData) := by
    rw [List.getLast?_map, List.getLast?_range, if_neg (by omega), Option.map_some]
  have hexec := exec_frames (g := [⟨writeMode s.cfg, Config.wrPrefixWidth⟩,
    ⟨addrValue (BitVec.ofNat 8 (a.toNat - 1)), Config.addrFieldWidth⟩]) hr hw hlist hlast (by simp)
  rw [hexec, ← seqMicros_event, ← clearMicros, clearMicros_event, List.length_map, List.length_range,
    BitVec.ofNat_toNat, BitVec.setWidth_eq]
  rfl

/-- `CLEAR` of no place is answered at acceptance (R26, R81). -/
theorem exec_clear_zero {s : State} {b : Byte} (hr : s.reqReady = true) :
    exec (.clear 0 b) s = .next
      { s with op := 4, a := 0, b := b, idx := 0, upc := 0, rstat := .ok, responses := s.responses ++ [.ok] } := by
  have hw : (Instr.clear 0 b).wellFormed s.cfg = true := (wellFormed_clear 0 b).2 (Nat.zero_le _)
  exact exec_noEvents hr hw ((opMicros_fields s.cfg (.clear 0 b)).trans (if_pos hw))

/-- Settles O27: no frame, one for each place, or the fault; `CLEAR_MAX` is at most 128. -/
theorem clearWritesZerosInOrder : Obligations.ClearWritesZerosInOrder := by
  refine ⟨rfl, fun a b => ⟨rfl, fun s hr => ⟨?_, fun h1 hmax => ⟨exec_clear hr h1 hmax, fun i j hi hj hlt =>
    idx_during_clearMicros s.cfg a _ hi hj hlt⟩, fun hout => exec_faulted hr ?_⟩⟩⟩
  · rintro rfl
    exact exec_clear_zero hr
  · have hmax := s.cfg.clearMax_le
    rw [Bool.eq_false_iff, ne_eq, wellFormed_clear]
    omega

end Sys2Proof.Machine

/-! The digit operations `SETDIG` (R84) and `SETDIGDOT` (R85), and the requests that are byte writes on the wire (R86):
the digit operations, one each, and `CLEAR`, one for each place. -/

namespace Sys2Proof.Machine

/-! ### The digit operations -/

/-- A legal request, other than `INIT`, whose list is the write frame of the byte `d` (R73, R75). -/
theorem exec_wrFrame {s : State} {i : Instr} {a d : Byte} (hr : s.reqReady = true) (hw : i.wellFormed s.cfg = true)
    (hop : i.op ≠ 1) (hlist : opMicros s.cfg i.op i.a i.b = frameMicros s.cfg none none (wrGroups s.cfg a d)) :
    exec i s = .next
      { s.finished i (wrFrame s.cfg a d) with cs := s.cfg.csOff, wr := true, data := d.getLsbD 0, sr := 0 } :=
  exec_frame (g := [⟨writeMode s.cfg, Config.wrPrefixWidth⟩, ⟨addrValue a, Config.addrFieldWidth⟩]) hr hw hop (by simp)
    hlist

/-- Settles O28: the write frame of the table's byte when both operands are in range, else the fault. -/
theorem setdigWritesPattern : Obligations.SetdigWritesPattern := by
  refine fun a b => ⟨rfl, fun s hr => ⟨fun ha hb => ?_, fun hout => exec_faulted hr ?_⟩⟩
  · obtain ⟨d, hd⟩ := patRead_isSome s.cfg b hb
    exact ⟨d, hd, exec_wrFrame hr ((wellFormed_setdig a b).2 ⟨ha, hb⟩) (by simp [Instr.op]) (opMicros_setdig ha hb hd),
      wrFrame_length s.cfg a d⟩
  · rw [Bool.eq_false_iff, ne_eq, wellFormed_setdig]
    omega

/-- The dot leaves the last bit sent, bit 0 of the pattern (R85). -/
theorem getLsbD_zero_or_dotMask (d : Byte) : (d ||| Config.dotMask).getLsbD 0 = d.getLsbD 0 := by
  rw [BitVec.getLsbD_or]
  exact Bool.or_false _

/-- Settles O29: the write frame of the dotted byte when both operands are in range, else the fault. -/
theorem setdigdotWritesPatternWithDot : Obligations.SetdigdotWritesPatternWithDot := by
  refine fun a b => ⟨rfl, fun s hr => ⟨fun ha hb => ?_, fun hout => exec_faulted hr ?_⟩⟩
  · obtain ⟨d, hd⟩ := patRead_isSome s.cfg b hb
    have hexec := exec_wrFrame hr ((wellFormed_setdigdot a b).2 ⟨ha, hb⟩) (by simp [Instr.op])
      (opMicros_setdigdot ha hb hd)
    rw [getLsbD_zero_or_dotMask] at hexec
    exact ⟨d, hd, hexec, wrFrame_length s.cfg a _⟩
  · rw [Bool.eq_false_iff, ne_eq, wellFormed_setdigdot]
    omega

/-! ### Byte writes on the wire -/

/-- Requests with the same list agree on the wire (R86). -/
theorem exec_sameWire {i j : Instr} {s : State} (hr : s.reqReady = true)
    (hlist : opMicros s.cfg i.op i.a i.b = opMicros s.cfg j.op j.a j.b) :
    ∃ t u, exec i s = .next t ∧ exec j s = .next u ∧ t.sameWire u := by
  obtain ⟨t, hexec, -⟩ := exec_records i hr
  obtain ⟨u, hexec', -⟩ := exec_records j hr
  have hevents : opEvents s.cfg i.op i.a i.b = opEvents s.cfg j.op j.a j.b := congrArg (List.map Micro.event) hlist
  exact ⟨t, u, hexec, hexec', (exec_emits hr hexec).sameWire (hevents ▸ exec_emits hr hexec')⟩

theorem patRead_zero (cfg : Cfg) : patRead cfg 0 = some 0xF5 := rfl

/-- Settles O32: each digit operation has the list of the byte write of its data byte. -/
theorem digitOperationsAreByteWrites : Obligations.DigitOperationsAreByteWrites := by
  intro s a v hr ha hv
  obtain ⟨d, hd⟩ := patRead_isSome s.cfg v hv
  obtain ⟨t, u, hexec, hexec', hwire⟩ := exec_sameWire (i := .setdig a v) (j := .wrbyte a d) hr
    ((opMicros_setdig ha hv hd).trans (opMicros_wrbyte ha).symm)
  obtain ⟨t', u', hdot, hdot', hwire'⟩ := exec_sameWire (i := .setdigdot a v) (j := .wrbyte a (d ||| 0x08)) hr
    ((opMicros_setdigdot ha hv hd).trans (opMicros_wrbyte ha).symm)
  refine ⟨d, t, u, t', u', hd, ?_, hexec, hexec', hwire, hdot, hdot', hwire'⟩
  rintro rfl
  obtain rfl : 0xF5 = d := Option.some.inj ((patRead_zero s.cfg).symm.trans hd)
  exact ⟨rfl, rfl⟩

/-- A legal request is answered `OK` and leaves `ERR` (R21, R26). -/
theorem exec_legal {i : Instr} {s t : State} (hr : s.reqReady = true) (hw : i.wellFormed s.cfg = true)
    (h : exec i s = .next t) : t.err = s.err ∧ t.rstat = .ok ∧ t.responses = s.responses ++ [.ok] := by
  obtain ⟨hill, -, -⟩ | ⟨-, -, hexec⟩ | ⟨-, -, hexec⟩ := exec_cases i hr
  · exact absurd (hw.symm.trans hill) (by decide)
  · cases hexec.symm.trans h
    exact ⟨rfl, rfl, rfl⟩
  · cases hexec.symm.trans h
    simp

/-- Legal requests, one after another, are each answered `OK` and leave `ERR` (R124). -/
theorem execAll_legal {is : List Instr} {s u : State} (hr : s.reqReady = true)
    (hw : ∀ i ∈ is, i.wellFormed s.cfg = true) (h : execAll is s = .next u) :
    u.err = s.err ∧ u.responses = s.responses ++ List.replicate is.length .ok := by
  induction is generalizing s with
  | nil =>
    cases h
    exact ⟨rfl, (List.append_nil _).symm⟩
  | cons i is ih =>
    obtain ⟨t, hexec, -, -, hready⟩ := exec_records i hr
    obtain ⟨herr, -, hresp⟩ := exec_legal hr (hw i List.mem_cons_self) hexec
    rw [execAll, hexec] at h
    obtain ⟨herr', hresp'⟩ := ih hready
      (fun j hj => (extends_exec hexec).cfg ▸ hw j (List.mem_cons_of_mem _ hj)) h
    refine ⟨herr'.trans herr, ?_⟩
    rw [hresp', hresp, List.append_assoc, List.length_cons, List.replicate_succ, List.singleton_append]

/-- `WRBYTE` in range sends one write frame (R76). -/
theorem opEvents_wrbyte {cfg : Cfg} {a d : Byte} (ha : a.toNat ≤ 127) : opEvents cfg 3 a d = wrFrame cfg a d := by
  rw [opEvents, opMicros_wrbyte ha, frameMicros_event, wrFrame]

/-- The byte writes of zero to the first `n` addresses, ascending (R86). -/
def zeroWrites (n : Nat) : List Instr := (List.range n).map fun i => .wrbyte (BitVec.ofNat 8 i) 0

/-- The addresses of at most 128 places are in range (R55, R81). -/
theorem place_toNat_le {n k : Nat} (hn : n ≤ 128) (hk : k ∈ List.range n) : (BitVec.ofNat 8 k).toNat ≤ 127 := by
  have hlt : k < n := List.mem_range.1 hk
  rw [BitVec.toNat_ofNat, Nat.mod_eq_of_lt (by omega)]
  omega

theorem zeroWrites_legal (cfg : Cfg) {n : Nat} (hn : n ≤ 128) {i : Instr} (hi : i ∈ zeroWrites n) :
    i.wellFormed cfg = true ∧ i.op ≠ 1 := by
  obtain ⟨k, hk, rfl⟩ := List.mem_map.1 hi
  exact ⟨(wellFormed_wrbyte _ _).2 (place_toNat_le hn hk), by simp [Instr.op]⟩

/-- `CLEAR n` emits the events of the `n` byte writes of zero (R81, R86). -/
theorem opEvents_clear_eq_zeroWrites {cfg : Cfg} {a : Byte} (b : Byte) (ha : a.toNat ≤ cfg.clearMax.val) :
    opEvents cfg 4 a b = (zeroWrites a.toNat).flatMap fun i => opEvents cfg i.op i.a i.b := by
  rw [opEvents_clear b ha, zeroWrites, List.flatMap_map]
  exact List.flatMap_congr fun k hk => (opEvents_wrbyte (place_toNat_le (ha.trans cfg.clearMax_le) hk)).symm

/-- Settles O33: the byte writes are legal and emit the events of `CLEAR`, place by place. -/
theorem clearIsSuccessiveByteWrites : Obligations.ClearIsSuccessiveByteWrites := by
  intro s a b hr ha
  have hlegal : ∀ i ∈ zeroWrites a.toNat, i.wellFormed s.cfg = true ∧ i.op ≠ 1 :=
    fun _ hi => zeroWrites_legal s.cfg (ha.trans s.cfg.clearMax_le) hi
  obtain ⟨t, hexec, -⟩ := exec_records (.clear a b) hr
  obtain ⟨u, hall, hemits, hlife⟩ := execAll_emits hr fun i hi => (hlegal i hi).2
  obtain ⟨herr, hrstat, -⟩ := exec_legal hr ((wellFormed_clear a b).2 ha) hexec
  obtain ⟨herr', hresp⟩ := execAll_legal hr (fun i hi => (hlegal i hi).1) hall
  rw [← opEvents_clear_eq_zeroWrites b ha] at hemits
  rw [zeroWrites, List.length_map, List.length_range] at hresp
  exact ⟨t, u, hexec, hall, (exec_emits hr hexec).sameWire hemits, (exec_life hr hexec).trans hlife.symm,
    herr.trans herr'.symm, hrstat, hresp⟩

end Sys2Proof.Machine

/-! The machine is never stuck (R104): a running operation stands at an entry of its list, so no engine step runs off
the end, and a request on a ready port is always answered. -/

namespace Sys2Proof.Machine

/-- An engine step at an entry of the list answers a next state. -/
theorem engineStep_next {s : State} (h : s.upc.toNat < s.ev.length) : ∃ t, engineStep s = .next t :=
  ⟨_, engineStep_of_entry s (List.getElem?_eq_getElem h)⟩

/-- The block's own step answers a next state when a running operation stands at an entry of its list. -/
theorem pass_next {s : State} (h : s.busy = true → s.upc.toNat < s.ev.length) : ∃ t, pass s = .next t := by
  rw [pass]
  split
  case isTrue hrun => exact engineStep_next (h (Bool.and_eq_true_iff.1 hrun).1)
  case isFalse => exact ⟨s, rfl⟩

/-- Settles O48: `UPC` of a running operation is within its list, which the agenda has no part in, so the block's own
step answers; a reset and `Issue` always do, and so does a request, which is taken on a ready port only. -/
theorem everyStepIsANextState : Obligations.EveryStepIsANextState := by
  intro s hinv
  have hentry (hbusy : s.busy = true) : s.upc.toNat < s.ev.length := (hinv.running hbusy).1
  obtain ⟨hs, -⟩ | ⟨rest, -, hs⟩ | ⟨w, rest, -, hs⟩ | ⟨w, rest, -, -, hs⟩ | ⟨w, rest, -, hready, hs⟩ := step_cases s
  · exact hs ▸ pass_next hentry
  · exact hs ▸ pass_next (s := { s with agenda := rest }) hentry
  · exact ⟨_, hs⟩
  · exact ⟨_, hs⟩
  · obtain ⟨t, hexec, -⟩ := exec_records (decode w) (s := { s with agenda := rest }) hready
    exact ⟨t, hs.trans hexec⟩

end Sys2Proof.Machine

/-! The lifecycle table (R20, R109): a step by reset leads to `BOUND`, a completing `INIT` to `INITED`, and nothing else
moves `LIFE`. -/

namespace Sys2Proof.Machine

/-- The block's own step completes an `INIT`: the event at `UPC` is the last of a running one (R27, R106). -/
@[reducible] def State.runningInitEnds (s : State) : Prop :=
  s.life ≠ .uninit ∧ s.busy = true ∧ s.op = 1 ∧ s.upc.toNat + 1 = (opEvents s.cfg s.op s.a s.b).length

/-! ### When a step completes an `INIT` -/

/-- A step that takes a request completes an `INIT` just when the request is one. -/
theorem initCompletes_iff_of_taken {s : State} {w : ReqWord} {rest : List HostAction}
    (hag : s.agenda = .request w :: rest) (hr : s.reqReady = true) : s.initCompletes ↔ (decode w).op = 1 := by
  obtain ⟨hidle, halive⟩ := s.reqReady_iff.1 hr
  simp [State.initCompletes, hag, hr, hidle, halive, fields_decode]

/-- A step that takes no request completes an `INIT` just when the block's own step does. -/
theorem initCompletes_iff_of_not_taken {s : State}
    (h : s.reqReady = true → ∀ w rest, s.agenda ≠ .request w :: rest) : s.initCompletes ↔ s.runningInitEnds := by
  refine and_congr_right fun _ => or_iff_right ?_
  rintro ⟨hr, w, rest, hag, -⟩
  exact h hr w rest hag

/-! ### What each kind of step does to `LIFE` -/

/-- An engine step moves `LIFE` only as the last of an `INIT` (R27). -/
theorem engineStep_life {s t : State} (h : engineStep s = .next t) :
    t.life = if s.op = 1 ∧ s.upc.toNat + 1 = (opEvents s.cfg s.op s.a s.b).length then .inited else s.life := by
  rw [opEvents_eq_map_ev, List.length_map]
  obtain ⟨m, hm, hnext, hend⟩ | ⟨m, hm, hnext, hend⟩ | ⟨-, hfault⟩ := engineStep_cases s
  · cases hnext.symm.trans h
    rw [perform_upc_toNat_of_entry hm] at hend
    simp [hend]
  · cases hnext.symm.trans h
    rw [perform_upc_toNat_of_entry hm] at hend
    simp [hend]
  · cases hfault.symm.trans h

/-- The block's own step moves `LIFE` only when it completes a running `INIT` (R103, R106). -/
theorem pass_life {s t : State} (h : pass s = .next t) :
    t.life = if s.runningInitEnds then .inited else s.life := by
  rw [pass] at h
  split at h
  case isTrue hrun =>
    obtain ⟨hbusy, halive⟩ : s.busy = true ∧ s.life ≠ .uninit := by simpa using hrun
    rw [engineStep_life h]
    simp [State.runningInitEnds, hbusy, halive]
  case isFalse hrest =>
    cases h
    rw [if_neg fun ⟨halive, hbusy, _⟩ => hrest (by simp [hbusy, halive])]

@[simp] theorem State.accept_life (s : State) (i : Instr) (ms : List Micro) : (s.accept i ms).life = s.life := by
  rw [State.accept]
  split <;> rfl

/-- `Issue` accepts or refuses its request; neither moves `LIFE` (R26). -/
@[simp] theorem State.issue_life (s : State) (w : ReqWord) : (s.issue w).life = s.life := by
  rw [State.issue_eq]
  split
  · exact s.accept_life ..
  · rfl

/-! ### The table -/

theorem step_of_reset {s : State} {w : Option ReqWord} {rest : List HostAction} (hag : s.agenda = .reset w :: rest) :
    step s = .next { s with agenda := rest }.takeReset := by
  simp only [step, hag]

/-- The two rows of the table for steps other than reset say the value of `LIFE` as a case distinction does. -/
theorem life_rows_of_eq_ite {p q : Prop} [Decidable q] {old new : Life} (hpq : p ↔ q)
    (h : new = if q then .inited else old) : (p → new = .inited) ∧ (¬ p → new = old) :=
  ⟨fun hp => h.trans (if_pos (hpq.1 hp)), fun hp => h.trans (if_neg (hp ∘ hpq.2))⟩

/-- A step other than reset moves `LIFE` just when it completes an `INIT` (R109). -/
theorem step_life {s t : State} (h : step s = .next t) (hno : s.noResetNext) :
    (s.initCompletes → t.life = .inited) ∧ (¬ s.initCompletes → t.life = s.life) := by
  obtain ⟨hs, hheld⟩ | ⟨rest, hag, hs⟩ | ⟨w, rest, hag, -⟩ | ⟨w, rest, hag, hr, hs⟩ | ⟨w, rest, hag, hr, hs⟩ :=
    step_cases s
  · refine life_rows_of_eq_ite (initCompletes_iff_of_not_taken fun hr w rest hreq => ?_) (pass_life (hs ▸ h))
    obtain hnil | ⟨_, _, -, hbusy⟩ := hheld
    · cases hnil.symm.trans hreq
    · cases hbusy.symm.trans hr
  · have hlife := pass_life (hs.symm.trans h)
    exact life_rows_of_eq_ite (initCompletes_iff_of_not_taken (by simp [hag])) hlife
  · exact absurd hag (hno w rest)
  · cases hs.symm.trans h
    obtain ⟨hidle, -⟩ := s.reqReady_iff.1 hr
    have hnone : ¬ s.runningInitEnds := fun ⟨_, hbusy, _⟩ => absurd (hidle.symm.trans hbusy) (by decide)
    refine life_rows_of_eq_ite (initCompletes_iff_of_not_taken (by simp [hag])) ?_
    rw [if_neg hnone, State.issue_life]
  · have hlife := exec_life (s := { s with agenda := rest }) hr (hs.symm.trans h)
    exact life_rows_of_eq_ite (initCompletes_iff_of_taken hag hr) hlife

/-- Settles O43: a step by reset answers the reset state, and any other moves `LIFE` just when it completes an `INIT`. -/
theorem lifecycleTransitions : Obligations.LifecycleTransitions := by
  intro s t h
  refine ⟨fun w rest hag => ?_, step_life h⟩
  cases (step_of_reset hag).symm.trans h
  rfl

end Sys2Proof.Machine

/-! One step, by the state of the port: a request on a ready port is taken, one on a port that is not ready is held, and
before the first reset nothing but reset is done (R26, R104, R105, R106). -/

namespace Sys2Proof.Machine

/-! ### A request on a ready port -/

theorem step_of_request {s : State} {w : ReqWord} {rest : List HostAction} (hag : s.agenda = .request w :: rest)
    (hr : s.reqReady = true) : step s = exec (decode w) { s with agenda := rest } := by
  simp only [step, hag, hr, if_true]

theorem step_of_issue {s : State} {w : ReqWord} {rest : List HostAction} (hag : s.agenda = .issue w :: rest)
    (hr : s.reqReady = true) : step s = .next ({ s with agenda := rest }.issue w) := by
  simp only [step, hag, hr, if_true]

/-- Settles O6: it is the arm of `step` for a request on a ready port. -/
theorem stepRunsDecodedRequest : Obligations.StepRunsDecodedRequest := fun _ _ _ => step_of_request

/-- A table number reads as a request just when it is a request word, and then as that word's request. -/
theorem decodeTableWord_eq_some {nbits w : Nat} {i : Instr} (h : decodeTableWord nbits w = some i) :
    ∃ r, toReqWord (tableNumber nbits w) = .ok r ∧ decode r = i := by
  rw [decodeTableWord, decodeNat] at h
  cases hword : toReqWord (tableNumber nbits w) with
  | ok r => exact ⟨r, rfl, by simpa [hword] using h⟩
  | error e => simp [hword] at h

theorem withFetchWord_of_ok {s : State} {nbits w : Nat} {r : ReqWord} (h : toReqWord (tableNumber nbits w) = .ok r) :
    s.withFetchWord nbits w = { s with agenda := .request r :: s.agenda } := by
  simp only [State.withFetchWord, h]

/-- Settles O7: the number is placed as a request of its word, which the step takes off the agenda again. -/
theorem placedWordRunsNext : Obligations.PlacedWordRunsNext := by
  intro s nbits w i hdecode hr
  obtain ⟨r, hword, rfl⟩ := decodeTableWord_eq_some hdecode
  rw [withFetchWord_of_ok hword]
  exact step_of_request (s := { s with agenda := .request r :: s.agenda }) rfl hr

/-- A legal request has no events just when it is `CLEAR` of no place (R26, R81). -/
theorem opMicros_eq_nil_iff {cfg : Cfg} {i : Instr} (hw : i.wellFormed cfg = true) :
    opMicros cfg i.op i.a i.b = [] ↔ i.op = 4 ∧ i.a = 0 := by
  constructor
  · intro hnil
    by_contra hclear
    exact opMicros_ne_nil hw (fun hop ha => hclear ⟨hop, BitVec.eq_of_toNat_eq ha⟩) hnil
  · rintro ⟨hop, ha⟩
    rw [hop, ha]
    exact (opMicros_fields cfg (.clear 0 i.b)).trans (if_pos ((wellFormed_clear 0 i.b).2 (Nat.zero_le _)))

theorem State.accept_nil (s : State) (i : Instr) : s.accept i [] = { s.latch i with idx := 0 }.respond .ok := rfl

/-- Settles O9: `Issue` refuses, answers at once, or accepts, by the range of the operands and the list. -/
theorem issueStepAcceptsOrFaults : Obligations.IssueStepAcceptsOrFaults := by
  intro s w rest hag hr
  obtain ⟨hop, ha, hb⟩ := fields_decode w
  rw [step_of_issue hag hr, State.issue_eq]
  dsimp only
  split
  case isFalse => rfl
  case isTrue hw =>
    have hempty := opMicros_eq_nil_iff hw
    rw [← hop, ← ha, ← hb]
    split
    case isTrue hclear =>
      rw [hempty.2 hclear, State.accept_nil, State.latch, hclear.1, hclear.2]
      rfl
    case isFalse hclear =>
      rw [State.accept_of_ne_nil _ _ (mt hempty.1 hclear)]
      rfl

/-! ### A request on a port that is not ready -/

theorem exec_of_not_ready {s : State} (i : Instr) (hr : s.reqReady = false) : exec i s = pass s := by
  rw [exec_eq_runRequest, runRequest_held s _ i _ hr]

/-- Settles O38: a request that is not taken leaves the block its own step. -/
theorem execHoldsWhileNotReady : Obligations.ExecHoldsWhileNotReady := fun i _ => exec_of_not_ready i

theorem step_of_held {s : State} {w : ReqWord} {rest : List HostAction}
    (hag : s.agenda = .request w :: rest ∨ s.agenda = .issue w :: rest) (hr : s.reqReady = false) :
    step s = pass s := by
  obtain hag | hag := hag
  · simp [step, hag, hr, exec_of_not_ready]
  · simp [step, hag, hr]

/-- An engine step leaves the host's actions, the latches and `ERR` (R17, R21, R27). -/
theorem engineStep_frame {s t : State} (h : engineStep s = .next t) :
    t.agenda = s.agenda ∧ t.op = s.op ∧ t.a = s.a ∧ t.b = s.b ∧ t.err = s.err := by
  obtain ⟨m, -, hnext, -⟩ | ⟨m, -, hnext, -⟩ | ⟨-, hfault⟩ := engineStep_cases s
  · cases hnext.symm.trans h
    simp
  · cases hnext.symm.trans h
    simp
  · cases hfault.symm.trans h

/-- Settles O8: the step is the block's own, which is none before the first reset and else an engine step. -/
theorem stepHoldsRequestWhileNotReady : Obligations.StepHoldsRequestWhileNotReady := by
  intro s w rest hag hr
  rw [step_of_held hag hr]
  refine ⟨pass_uninit s, fun halive => ?_⟩
  have hbusy : s.busy = true := (s.not_reqReady_iff.1 hr).resolve_right halive
  rw [pass_running s hbusy halive]
  exact ⟨rfl, fun t => engineStep_frame⟩

/-! ### Before the first reset -/

/-- Settles O42: the port is not ready and the block's own step is none, so at most a pause is taken off the agenda. -/
theorem onlyResetBeforeFirstReset : Obligations.OnlyResetBeforeFirstReset := by
  intro s huninit hno
  have hnotready : ¬ s.reqReady = true := fun hr => (s.reqReady_iff.1 hr).2 huninit
  obtain ⟨hs, -⟩ | ⟨rest, -, hs⟩ | ⟨w, rest, hag, -⟩ | ⟨w, rest, -, hr, -⟩ | ⟨w, rest, -, hr, -⟩ := step_cases s
  · exact ⟨s.agenda, hs.trans (pass_uninit s huninit)⟩
  · exact ⟨rest, hs.trans (pass_uninit { s with agenda := rest } huninit)⟩
  · exact absurd hag (hno w rest)
  · exact absurd hr hnotready
  · exact absurd hr hnotready

/-! ### Reset -/

/-- Settles O40: by computation from the default configuration. -/
theorem resetStateValues : Obligations.ResetStateValues := ⟨rfl, rfl, rfl, rfl, rfl, rfl, rfl, rfl, rfl, rfl⟩

/-- After reset only `LIFE` shows in `STATUS` (R23, R105). -/
theorem State.takeReset_statusByte (s : State) : s.takeReset.statusByte = 0x02 := by
  rw [statusByte, takeReset_rstat, takeReset_err, takeReset_life, takeReset_busy]
  decide

/-- Settles O41: the step is the reset action, whatever the state and the word presented. -/
theorem resetFromAnyState : Obligations.ResetFromAnyState := fun _ _ _ hag =>
  ⟨_, step_of_reset hag, rfl, rfl, rfl, rfl, rfl, rfl, rfl, rfl, rfl, rfl, State.takeReset_statusByte _, rfl, rfl, rfl⟩

/-! ### Pseudo-instructions -/

/-- Settles O5: a pseudo-instruction's operand byte is encoded as its expansion's is. -/
theorem pseudoInstructionsExpand : Obligations.PseudoInstructionsExpand :=
  ⟨rfl, rfl, rfl, rfl, fun a => assembleTwo_toNat .setdig a 16, fun a => assembleTwo_toNat .wrbyte a 0⟩

end Sys2Proof.Machine

/-! The host's action is taken off the agenda and no operation reads it: performing entries leaves it alone and does not
depend on it (log 7). -/

namespace Sys2Proof.Machine

/-- The state with another list of actions to come from the host. -/
def State.withAgenda (s : State) (rest : List HostAction) : State := { s with agenda := rest }

section
variable (s : State) (rest : List HostAction)

theorem State.regWriteOpt_withAgenda (u : Option RegWrite) :
    (s.withAgenda rest).regWrite? u = (s.regWrite? u).withAgenda rest := by
  rcases u with _ | u
  · rfl
  · cases u <;> rfl

theorem State.emit_withAgenda (e : Event) : (s.withAgenda rest).emit e = (s.emit e).withAgenda rest := by
  match e with
  | .wait | .set .cs _ | .set .wr _ | .set .data _ => rfl

theorem State.perform_withAgenda (m : Micro) : (s.withAgenda rest).perform m = (s.perform m).withAgenda rest := by
  simp only [State.perform, regWriteOpt_withAgenda, emit_withAgenda]
  rfl

theorem State.performAll_withAgenda (ms : List Micro) :
    (s.withAgenda rest).performAll ms = (s.performAll ms).withAgenda rest := by
  induction ms generalizing s with
  | nil => rfl
  | cons m ms ih => rw [performAll_cons, performAll_cons, perform_withAgenda, ih]

end

end Sys2Proof.Machine

/-! Every step keeps the invariant. What the invariant says of every state alike, `Steady`, is kept by whatever emits
events and answers; a state in mid-operation has performed a first part of its list, and one between operations has
performed it to the end, which releases chip-select (R14, R19, R22, R72). -/

namespace Sys2Proof.Machine

/-! ### The part of the invariant that speaks of no operation -/

/-- The level a line has after reset (R105). -/
def idleLevel (cfg : Cfg) : Pin → Level
  | .cs => cfg.csOff
  | .wr => cfg.wrIdle
  | .data => cfg.dataIdle

/-- `RSTAT` and `ERR` are what the responses since reset make them (R21, R22, R95). -/
structure Recorded (rstat : RespStatus) (err : Bool) (rs : List RespStatus) : Prop where
  /-- `RSTAT` is the status of the last response. -/
  lastStatus : rstat = rs.getLastD .ok
  /-- Only `OK` and `InvalidArgument` are given. -/
  statusKinds : ∀ r ∈ rs, r = .ok ∨ r = .invalidArgument
  /-- `ERR` says whether any was `InvalidArgument`. -/
  errRecords : err = true ↔ .invalidArgument ∈ rs

theorem recorded_reset : Recorded .ok false [] := ⟨rfl, by simp, by simp⟩

theorem Recorded.ok {rstat : RespStatus} {err : Bool} {rs : List RespStatus} (h : Recorded rstat err rs) :
    Recorded .ok err (rs ++ [.ok]) :=
  ⟨by simp, by simpa [or_imp, forall_and] using h.statusKinds, by simpa using h.errRecords⟩

theorem Recorded.invalidArgument {rstat : RespStatus} {err : Bool} {rs : List RespStatus} (h : Recorded rstat err rs) :
    Recorded .invalidArgument true (rs ++ [.invalidArgument]) :=
  ⟨by simp, by simpa [or_imp, forall_and] using h.statusKinds, by simp⟩

/-- What the invariant says of every state alike. -/
structure Steady (s : State) : Prop where
  /-- Reset has been taken. -/
  alive : s.life ≠ .uninit
  /-- Every line is where `TRACE` leaves it, from its idle level. -/
  replay : ∀ p, s.pin p = levelAfter p s.trace (idleLevel s.cfg p)
  /-- The status is what the responses say. -/
  recorded : Recorded s.rstat s.err s.responses

theorem Inv.steady {s : State} (h : Inv s) : Steady s :=
  ⟨h.alive, fun p => by cases p; exacts [h.csReplay, h.wrReplay, h.dataReplay],
    h.lastStatus, h.statusKinds, h.errRecords⟩

/-- Between operations the invariant asks, beside the steady part, for released chip-select. -/
theorem Steady.inv_of_idle {s : State} (h : Steady s) (hbusy : s.busy = false) (hcs : s.cs = s.cfg.csOff) : Inv s where
  alive := h.alive
  csReplay := h.replay .cs
  wrReplay := h.replay .wr
  dataReplay := h.replay .data
  idleReleased := fun _ => hcs
  running := fun hb => absurd (hbusy.symm.trans hb) (by decide)
  lastStatus := h.recorded.lastStatus
  statusKinds := h.recorded.statusKinds
  errRecords := h.recorded.errRecords

/-- In mid-operation it asks for a state with released chip-select from which the first entries have been performed. -/
theorem Steady.inv_of_running {s s0 : State} (h : Steady s) (hbusy : s.busy = true) (hupc : s.upc.toNat < s.ev.length)
    (hcs : s0.cs = s.cfg.csOff) (hupc0 : s0.upc = 0) (hs : s = s0.performAll (s.ev.take s.upc.toNat)) : Inv s where
  alive := h.alive
  csReplay := h.replay .cs
  wrReplay := h.replay .wr
  dataReplay := h.replay .data
  idleReleased := fun hb => absurd (hb.symm.trans hbusy) (by decide)
  running := fun _ => ⟨hupc, s0, hcs, hupc0, hs⟩
  lastStatus := h.recorded.lastStatus
  statusKinds := h.recorded.statusKinds
  errRecords := h.recorded.errRecords

/-! ### What keeps the steady part -/

/-- Emitting events keeps the lines at the replay of `TRACE` (R28). -/
theorem Steady.of_emits {s t : State} {es : List Event} (h : Steady s) (hem : Emits s es t) (hcfg : t.cfg = s.cfg)
    (halive : t.life ≠ .uninit) (hrec : Recorded t.rstat t.err t.responses) : Steady t :=
  ⟨halive, fun p => by rw [hem.pin, hem.trace, hcfg, levelAfter_append, h.replay p], hrec⟩

theorem emits_performAll (s : State) (ms : List Micro) : Emits s (ms.map Micro.event) (s.performAll ms) :=
  ⟨s.performAll_trace ms, s.performAll_pin ms⟩

theorem Steady.performAll {s : State} (h : Steady s) (ms : List Micro) : Steady (s.performAll ms) :=
  h.of_emits (emits_performAll s ms) (by simp) (by simpa using h.alive) (by simpa using h.recorded)

theorem Steady.complete {s : State} (h : Steady s) : Steady s.complete := by
  refine ⟨?_, fun p => (s.complete_pin p).trans (h.replay p), h.recorded.ok⟩
  rw [State.complete_life]
  split
  · exact Life.noConfusion
  · exact h.alive

theorem Steady.raiseInvalidArgument {s : State} (h : Steady s) : Steady s.raiseInvalidArgument :=
  ⟨h.alive, h.replay, h.recorded.invalidArgument⟩

theorem Steady.respondOk {s : State} (h : Steady s) : Steady (s.respond .ok) := ⟨h.alive, h.replay, h.recorded.ok⟩

theorem Steady.accepted {s : State} (h : Steady s) (i : Instr) : Steady (s.accepted i) :=
  ⟨h.alive, h.replay, h.recorded⟩

/-! ### The engine step -/

/-- The events of a whole operation leave chip-select released if they find it so (R72). -/
theorem levelAfter_cs_opMicros (cfg : Cfg) (i : Instr) :
    levelAfter .cs ((opMicros cfg i.op i.a i.b).map Micro.event) cfg.csOff = cfg.csOff := by
  obtain hnil | ⟨g, -, hframe⟩ | ⟨v, n, -, hxmit⟩ | ⟨-, fs, -, hseq⟩ := opMicros_shape cfg i
  · rw [hnil]
    rfl
  · rw [hframe, frameMicros_event, levelAfter_frame_cs]
  · rw [hxmit, xmitMicros_event, levelAfter_xmit_cs]
  · rw [hseq, seqMicros_event]
    clear hseq
    induction fs with
    | nil => rfl
    | cons g fs ih => rw [List.flatMap_cons, levelAfter_append, levelAfter_frame_cs, ih]

/-- The same for the engine's list, whatever request the latches hold. -/
theorem levelAfter_cs_ev (s : State) : levelAfter .cs (s.ev.map Micro.event) s.cfg.csOff = s.cfg.csOff := by
  obtain ⟨hop, ha, hb⟩ := fields_decodeFields s.op s.a s.b
  have hlist := levelAfter_cs_opMicros s.cfg (decodeFields s.op s.a s.b)
  rwa [hop, ha, hb] at hlist

/-- Performing an entry that is not the last keeps the invariant: one more of the first entries has been performed. -/
theorem Inv.perform {s : State} {m : Micro} (h : Inv s) (hbusy : s.busy = true) (hm : s.ev[s.upc.toNat]? = some m)
    (hmore : s.upc.toNat + 1 < s.ev.length) : Inv (s.perform m) := by
  obtain ⟨hlt, s0, hcs, hupc0, hs⟩ := h.running hbusy
  have hupc := perform_upc_toNat_of_entry hm
  have hsteady : Steady (s.perform m) := h.steady.performAll [m]
  refine hsteady.inv_of_running (s0 := s0) (by simpa using hbusy) ?_ (by simpa using hcs) hupc0 ?_
  · rwa [hupc, State.perform_ev]
  · rw [hupc, State.perform_ev, List.take_add_one, hm, State.performAll_append, ← hs]
    rfl

/-- Performing all the entries that are left and completing keeps the invariant: the whole list has been performed. -/
theorem Inv.runToEnd {s : State} (h : Inv s) (hbusy : s.busy = true) :
    Inv (s.performAll (s.ev.drop s.upc.toNat)).complete := by
  obtain ⟨-, s0, hcs, -, hs⟩ := h.running hbusy
  have hall : s.performAll (s.ev.drop s.upc.toNat) = s0.performAll s.ev :=
    calc s.performAll (s.ev.drop s.upc.toNat)
        = (s0.performAll (s.ev.take s.upc.toNat)).performAll (s.ev.drop s.upc.toNat) := by rw [← hs]
      _ = s0.performAll s.ev := by rw [← State.performAll_append, List.take_append_drop]
  refine (h.steady.performAll _).complete.inv_of_idle rfl ?_
  rw [State.complete_cs, State.complete_cfg, State.performAll_cfg, hall, State.performAll_cs, hcs, levelAfter_cs_ev]

theorem Inv.of_engineStep {s t : State} (h : Inv s) (hbusy : s.busy = true) (hstep : engineStep s = .next t) : Inv t := by
  obtain ⟨hlt, -⟩ := h.running hbusy
  have hm : s.ev[s.upc.toNat]? = some s.ev[s.upc.toNat] := List.getElem?_eq_getElem hlt
  obtain hlast | hmore : s.upc.toNat + 1 = s.ev.length ∨ s.upc.toNat + 1 < s.ev.length := Nat.eq_or_lt_of_le hlt
  · cases (engineStep_last hm hlast).symm.trans hstep
    have hend := h.runToEnd hbusy
    rwa [List.drop_eq_getElem_cons hlt, hlast, List.drop_length] at hend
  · cases (engineStep_not_last hm hmore).symm.trans hstep
    exact h.perform hbusy hm hmore

theorem Inv.of_pass {s t : State} (h : Inv s) (hstep : pass s = .next t) : Inv t := by
  cases hbusy : s.busy with
  | true => exact h.of_engineStep hbusy ((pass_running s hbusy h.alive).symm.trans hstep)
  | false =>
    cases (pass_idle s hbusy).symm.trans hstep
    exact h

/-! ### The host's actions -/

/-- The invariant does not speak of the actions to come. -/
theorem Inv.withAgenda {s : State} (h : Inv s) (rest : List HostAction) : Inv (s.withAgenda rest) := by
  have hsteady : Steady (s.withAgenda rest) := ⟨h.alive, h.steady.replay, h.steady.recorded⟩
  cases hbusy : s.busy with
  | true =>
    obtain ⟨hlt, s0, hcs, hupc0, hs⟩ := h.running hbusy
    refine hsteady.inv_of_running (s0 := s0.withAgenda rest) hbusy hlt hcs hupc0 ?_
    rw [State.performAll_withAgenda]
    exact congrArg (·.withAgenda rest) hs
  | false => exact hsteady.inv_of_idle hbusy (h.idleReleased hbusy)

/-- Reset meets the invariant from any state (R105). -/
theorem inv_takeReset (s : State) : Inv s.takeReset :=
  Steady.inv_of_idle ⟨Life.noConfusion, fun p => by cases p <;> rfl, recorded_reset⟩ rfl rfl

section
variable {s : State} (h : Inv s) (hbusy : s.busy = false)
include h hbusy

theorem Inv.raiseInvalidArgument : Inv s.raiseInvalidArgument :=
  h.steady.raiseInvalidArgument.inv_of_idle hbusy (h.idleReleased hbusy)

/-- A request answered at acceptance (R26). -/
theorem Inv.answered (i : Instr) : Inv ({ s.latch i with idx := 0 }.respond .ok) :=
  Steady.inv_of_idle (Steady.respondOk ⟨h.alive, h.steady.replay, h.steady.recorded⟩) hbusy (h.idleReleased hbusy)

/-- An accepted request stands at the first entry of its list, and none has been performed (R26). -/
theorem Inv.accepted {i : Instr} (hm : opMicros s.cfg i.op i.a i.b ≠ []) : Inv (s.accepted i) :=
  (h.steady.accepted i).inv_of_running (s0 := s.accepted i) rfl (List.length_pos_iff.2 hm) (h.idleReleased hbusy) rfl rfl

theorem Inv.issue (w : ReqWord) : Inv (s.issue w) := by
  rw [State.issue_eq]
  split
  case isTrue =>
    by_cases hm : opMicros s.cfg (decode w).op (decode w).a (decode w).b = []
    · rw [hm]
      exact h.answered hbusy (decode w)
    · rw [State.accept_of_ne_nil s _ hm]
      exact h.accepted hbusy hm
  case isFalse => exact h.raiseInvalidArgument hbusy

end

theorem Inv.of_exec {i : Instr} {s t : State} (h : Inv s) (hr : s.reqReady = true) (hstep : exec i s = .next t) :
    Inv t := by
  obtain ⟨hbusy, -⟩ := s.reqReady_iff.1 hr
  obtain ⟨-, -, hexec⟩ | ⟨-, -, hexec⟩ | ⟨-, hm, hexec⟩ := exec_cases i hr <;> cases hexec.symm.trans hstep
  · exact h.raiseInvalidArgument hbusy
  · exact h.answered hbusy i
  · exact (h.accepted hbusy hm).runToEnd rfl

/-- Settles O46: by what a step can do; in mid-operation one more entry has been performed, at its end all of them,
which release chip-select again. -/
theorem everyStepKeepsTheInvariant : Obligations.EveryStepKeepsTheInvariant := by
  intro s t hinv h
  obtain ⟨hs, -⟩ | ⟨rest, -, hs⟩ | ⟨w, rest, -, hs⟩ | ⟨w, rest, -, hr, hs⟩ | ⟨w, rest, -, hr, hs⟩ := step_cases s
  · exact hinv.of_pass (hs.symm.trans h)
  · exact (hinv.withAgenda rest).of_pass (hs.symm.trans h)
  · cases hs.symm.trans h
    exact inv_takeReset _
  · cases hs.symm.trans h
    exact (hinv.withAgenda rest).issue (s.reqReady_iff.1 hr).1 w
  · exact (hinv.withAgenda rest).of_exec hr (hs.symm.trans h)

/-- Settles O47: the state after reset is idle, with empty records and the lines at their idle levels. -/
theorem resetMeetsTheInvariant : Obligations.ResetMeetsTheInvariant :=
  Steady.inv_of_idle ⟨Life.noConfusion, fun p => by cases p <;> rfl, recorded_reset⟩ rfl rfl

end Sys2Proof.Machine
